-- ==== Sys2Proof/Word.lean ====
section
/-! DEFINITION. The word types of the block (00_scope.md R11 to R13, R16). -/

namespace Sys2Proof

/-- A byte on a port (R11). -/
abbrev Byte := BitVec 8

/-- An f64 value as its 64-bit IEEE 754 binary64 pattern (R13). The arithmetic is Machine/F64.lean's. -/
abbrev F64 := BitVec 64

/-- A 6-bit ADC register address (R55). -/
abbrev RegAddr := BitVec 6

/-- A raw 24-bit ADC code (R91). -/
abbrev AdcCode := BitVec 24

/-- An 18-bit DAC code (R36, R100). -/
abbrev DacCode := BitVec 18

/-- The level of a pin (R16). -/
inductive Level where
  | low
  | high
deriving DecidableEq, Repr, Inhabited

/-- `high` for true, `low` for false. -/
def Level.ofBool (v : Bool) : Level := if v then .high else .low

end Sys2Proof
end

