-- ==== Sys2Proof/Machine/Bytes.lean ====
section
/-! DEFINITION. Byte order and bit fields: big-endian payloads (20_memory.md R58), field replacement (42_adc_protocol.md R127). -/

namespace Sys2Proof.Machine

/-- R58: the value of a received payload, first byte most significant. -/
def be (p : List Byte) : BitVec 32 := p.foldl (fun acc b => (acc <<< 8) ||| b.setWidth 32) 0#32

/-- R58: the n low bytes of a value, most significant first. -/
def bytesBe : Nat → BitVec 32 → List Byte
  | 0, _ => []
  | n + 1, v => v.extractLsb' (8 * n) 8 :: bytesBe n v

/-- The bits of `mask` come from `value`, every other bit from `old` (R134, R150). -/
def mergeBits (mask value old : BitVec 32) : BitVec 32 := (old &&& ~~~mask) ||| (value &&& mask)

/-- The mask of bits hi down to lo. -/
def fieldMask (hi lo : Nat) : BitVec 32 := BitVec.ofNat 32 ((2 ^ (hi + 1 - lo) - 1) * 2 ^ lo)

/-- R127 `set(p, field, v)` on the big-endian value: the field replaced, every other bit kept. -/
def setField (hi lo : Nat) (v : Nat) (old : BitVec 32) : BitVec 32 :=
  mergeBits (fieldMask hi lo) (BitVec.ofNat 32 (v * 2 ^ lo)) old

/-- A port answer cut or filled with zeros to the length of the transfer (R16: the same number of bytes; log 1). -/
def fitBytes : Nat → List Byte → List Byte
  | 0, _ => []
  | n + 1, [] => 0#8 :: fitBytes n []
  | n + 1, b :: bs => b :: fitBytes n bs

end Sys2Proof.Machine
end

