-- ==== Sys2Proof/Syntax.lean ====
section
/-! DEFINITION. The commands of 30_encoding.md R105 and the four wire rows of the opcode table, as one inductive.
Operands that travel in opA, opB, opD, opM (R101) are read from the state and are no part of the syntax. -/

namespace Sys2Proof

/-- A channel index (R20, R105). -/
inductive Ch where
  | c0
  | c1
deriving DecidableEq, Repr, Inhabited

/-- A matrix slot index (R46). -/
inductive Slot where
  | k0
  | k1
  | k2
  | k3
  | k4
  | k5
  | k6
  | k7
deriving DecidableEq, Repr, Inhabited

/-- A checksum mode (R20, R90). -/
inductive CkMode where
  | off
  | xor
  | crc
deriving DecidableEq, Repr, Inhabited

/-- A biquad coefficient (R44, R102). -/
inductive Coeff where
  | b0
  | b1
  | b2
  | a1
  | a2
deriving DecidableEq, Repr, Inhabited

/-- A parameter PID_SET_PARAM writes (R102, R173). -/
inductive PidParam where
  | target
  | kp
  | kd
  | outputMin
  | outputMax
  | integralMin
  | integralMax
deriving DecidableEq, Repr, Inhabited

/-- A Steinhart-Hart parameter (R102, R162). -/
inductive ShParam where
  | t0
  | r0
  | b
deriving DecidableEq, Repr, Inhabited

/-- The role of a matrix source (R102, R187). -/
inductive Role where
  | input
  | target
deriving DecidableEq, Repr, Inhabited

/-- A matrix source selector (R104). -/
inductive Source where
  | const
  | temp (ch : Ch)
  | filter (k : Slot)
deriving DecidableEq, Repr, Inhabited

/-- The policy CH_SET_CENTER selects (R102, R201). -/
inductive CenterSel where
  | vref
  | override
deriving DecidableEq, Repr, Inhabited

/-- A PWM limit (R102, R206). -/
inductive Limit where
  | maxIPos
  | maxINeg
  | maxV
deriving DecidableEq, Repr, Inhabited

/-- One constructor per row of spec/opcode_table.json (R105; the last four are the wire rows of R82, R85, R100). -/
inductive Instr where
  | ckInit (mode : CkMode)
  | ckFeed (byte : Byte)
  | ckResult
  | adcReset
  | adcReadReg (addr : RegAddr)
  | adcWriteReg (addr : RegAddr)
  | adcUpdateReg (addr : RegAddr)
  | adcIdentify
  | adcSetChecksumMode (mode : CkMode)
  | adcSetupChannel (ch : Ch) (inPos inNeg : BitVec 5)
  | adcCalibrateOffset
  | adcGetCalibration (ch : Ch)
  | adcGetPostfilter (ch : Ch)
  | adcSetPostfilter (ch : Ch) (code : Option (BitVec 3))
  | adcPostfilterClosest
  | adcDataReady
  | adcReadData
  | adcInit
  | dacInit (ch : Ch)
  | dacSetCode (ch : Ch)
  | dacSetVolts (ch : Ch)
  | shGetTemperature (ch : Ch)
  | shSetParam (ch : Ch) (param : ShParam)
  | pidUpdate (ch : Ch)
  | pidUpdateKi (ch : Ch)
  | pidSetParam (ch : Ch) (param : PidParam)
  | iirTick (ch : Ch)
  | iirSetCoeff (ch : Ch) (coeff : Coeff)
  | iirSetTarget (ch : Ch)
  | mtxTick
  | mtxSetCoeff (k : Slot) (coeff : Coeff)
  | mtxSetSource (k : Slot) (role : Role) (sel : Source)
  | chConvertData (ch : Ch)
  | chSample (ch : Ch)
  | chGetTemperature (ch : Ch)
  | chSetI (ch : Ch)
  | chGetI (ch : Ch)
  | chSetDacVolts (ch : Ch)
  | chSetCenter (ch : Ch) (sel : CenterSel)
  | chSetPidEngaged (ch : Ch) (flag : Bool)
  | chSetIirEngaged (ch : Ch) (flag : Bool)
  | chSetMtxSel (ch : Ch) (sel : Option Slot)
  | chSetTecEn (ch : Ch) (flag : Bool)
  | chSetPwmLimit (ch : Ch) (limit : Limit)
  | chCalibrateDac (ch : Ch)
  | chReadField (idx : BitVec 3) (field : BitVec 8)
  | pollAdc
  | blockInit
  | spiReadCmd (addr : RegAddr)
  | spiWriteCmd (addr : RegAddr)
  | spiResetFrame
  | dacWord (code : DacCode)
deriving DecidableEq, Repr

/-- An encoded instruction in one of the four formats: a command word (CMD32, R101), an ADC command byte (SPI_CMD8, R82),
the 64 bits of the reset frame (R85), a DAC word (DAC24, R100). -/
inductive Raw where
  | cmd32 (w : BitVec 32)
  | spi8 (b : BitVec 8)
  | reset64 (w : BitVec 64)
  | dac24 (w : BitVec 24)
deriving DecidableEq, Repr

end Sys2Proof
end

