-- ==== Sys2Proof/Config.lean ====
section
/-! DEFINITION. What the spec leaves open, as uninterpreted constants (R9, R10, U1, U2, U17, U25): nothing in Lean can
evaluate one, so a claim holds for every value of it. The parameters the spec fixes or decides are Machine/Params.lean's. -/

namespace Sys2Proof

/-- The binary64 operations whose result can be a new NaN. -/
inductive FOp where
  | add
  | sub
  | mul
  | div
deriving DecidableEq, Repr, Inhabited

/-- What a port agent does when one port primitive consults it (R16, R69): it fails the primitive (Transport), or it
answers; an SPI transfer takes `bytes`, a feedback sample takes `volts`. -/
structure Answer where
  fails : Bool
  bytes : List Byte
  volts : F64
deriving DecidableEq, Repr, Inhabited

/-- U17, log 2: the bit pattern of the NaN an operation produces from its operands. -/
opaque Config.nanBits : FOp → F64 → F64 → BitVec 64

/-- R9 LN (OPEN), log 3: the natural logarithm. -/
opaque Config.ln : F64 → F64

/-- R9 FE_R (OPEN), R194, log 3: the sensor front end, volts to ohms. -/
opaque Config.feR : F64 → F64

/-- R9 SYNC_IDLE[ch] (OPEN), log 3. -/
opaque Config.syncIdle : Ch → Level

/-- R9 ADC_VREF (OPEN), log 3. -/
opaque Config.adcVref : F64

/-- R9 SETUP_ODR (OPEN), log 3. -/
opaque Config.setupOdr : BitVec 5

/-- U1, U2, log 1: what the port agents answer to the n-th port primitive. -/
opaque Config.answer : Nat → Answer

end Sys2Proof
end

