-- ==== Sys2Proof/Machine/F64.lean ====
section
/-! DEFINITION. IEEE 754 binary64 arithmetic on bit patterns, round to nearest, ties to even (R13). Every operation
computes exactly on integers and rounds once; a NaN result has a free bit pattern (U17, log 2). -/

namespace Sys2Proof.Machine

/-- A binary64 value taken apart: `fin s m e` is (-1)^s * m * 2^e. -/
inductive Num where
  | nan
  | inf (s : Bool)
  | fin (s : Bool) (m : Nat) (e : Int)
deriving DecidableEq, Repr

/-- The biased exponent field, bits 62:52. -/
def F64.expField (x : F64) : Nat := (x.extractLsb' 52 11).toNat

/-- The fraction field, bits 51:0. -/
def F64.frac (x : F64) : Nat := (x.extractLsb' 0 52).toNat

/-- The sign bit. -/
def F64.sign (x : F64) : Bool := x.getLsbD 63

/-- The value a bit pattern stands for. -/
def F64.unpack (x : F64) : Num :=
  if F64.expField x = 2047 then
    if F64.frac x = 0 then .inf (F64.sign x) else .nan
  else if F64.expField x = 0 then .fin (F64.sign x) (F64.frac x) (-1074)
  else .fin (F64.sign x) (2 ^ 52 + F64.frac x) ((F64.expField x : Int) - 1075)

/-- A pattern from its sign and the 63 bits below it. -/
def F64.pack (s : Bool) (mag : Nat) : F64 := BitVec.ofNat 64 ((if s then 2 ^ 63 else 0) + mag)

/-- The 63 bits of an infinity below its sign. -/
def F64.infMag : Nat := 2047 * 2 ^ 52

def F64.zero (s : Bool) : F64 := F64.pack s 0

def F64.inf (s : Bool) : F64 := F64.pack s F64.infMag

/-- `n / 2^k` rounded to the nearest integer, ties to even. -/
def shiftRound (n : Nat) : Nat → Nat
  | 0 => n
  | k + 1 =>
    let q := n >>> (k + 1)
    let r := n - (q <<< (k + 1))
    if 2 ^ k < r ∨ (r = 2 ^ k ∧ q % 2 = 1) then q + 1 else q

/-- (-1)^s * n * 2^e rounded to binary64: the unit in the last place is 2^q, the significand m; a carry out of m moves
into the exponent field by itself. -/
def F64.round (s : Bool) (n : Nat) (e : Int) : F64 :=
  if n = 0 then F64.zero s
  else
    let q : Int := max (e + (n.log2 : Int) - 52) (-1074)
    let m : Nat := if q ≤ e then n <<< (e - q).toNat else shiftRound n (q - e).toNat
    let mag : Nat := (q + 1074).toNat * 2 ^ 52 + m
    if F64.infMag ≤ mag then F64.inf s else F64.pack s mag

/-- A NaN produced by an operation: exponent all ones, a nonzero fraction, everything else free (U17, log 2). -/
def F64.newNaN (op : FOp) (a b : F64) : F64 :=
  let free := Config.nanBits op a b
  let f := (free.extractLsb' 0 52).toNat
  F64.pack (free.getLsbD 63) (F64.infMag + (if f = 0 then 1 else f))

def F64.isNaN (x : F64) : Bool := F64.expField x == 2047 && F64.frac x != 0

/-- R13: neither infinite nor NaN. -/
def F64.isFinite (x : F64) : Bool := F64.expField x != 2047

def F64.neg (x : F64) : F64 := x ^^^ BitVec.ofNat 64 (2 ^ 63)

/-- |x|: the sign bit cleared. -/
def F64.abs (x : F64) : F64 := x &&& BitVec.ofNat 64 (2 ^ 63 - 1)

/-- ±n as an integer. -/
def signedInt (s : Bool) (n : Nat) : Int := if s then -(n : Int) else n

/-- The sum of two finite values: exact, then rounded; an exact zero is -0 only if both are negative. -/
def F64.addFin (s1 : Bool) (m1 : Nat) (e1 : Int) (s2 : Bool) (m2 : Nat) (e2 : Int) : F64 :=
  let e := min e1 e2
  let i := signedInt s1 (m1 <<< (e1 - e).toNat) + signedInt s2 (m2 <<< (e2 - e).toNat)
  if i = 0 then F64.zero (s1 && s2) else F64.round (decide (i < 0)) i.natAbs e

def F64.addNum (nan : F64) : Num → Num → F64
  | .nan, _ => nan
  | _, .nan => nan
  | .inf s1, .inf s2 => if s1 = s2 then F64.inf s1 else nan
  | .inf s1, .fin .. => F64.inf s1
  | .fin .., .inf s2 => F64.inf s2
  | .fin s1 m1 e1, .fin s2 m2 e2 => F64.addFin s1 m1 e1 s2 m2 e2

def F64.add (a b : F64) : F64 := F64.addNum (F64.newNaN .add a b) (F64.unpack a) (F64.unpack b)

def F64.sub (a b : F64) : F64 := F64.addNum (F64.newNaN .sub a b) (F64.unpack a) (F64.unpack (F64.neg b))

def F64.mulNum (nan : F64) : Num → Num → F64
  | .nan, _ => nan
  | _, .nan => nan
  | .inf s1, .inf s2 => F64.inf (s1 ^^ s2)
  | .inf s1, .fin s2 m2 _ => if m2 = 0 then nan else F64.inf (s1 ^^ s2)
  | .fin s1 m1 _, .inf s2 => if m1 = 0 then nan else F64.inf (s1 ^^ s2)
  | .fin s1 m1 e1, .fin s2 m2 e2 => F64.round (s1 ^^ s2) (m1 * m2) (e1 + e2)

def F64.mul (a b : F64) : F64 := F64.mulNum (F64.newNaN .mul a b) (F64.unpack a) (F64.unpack b)

/-- The quotient of two nonzero finite magnitudes: 110 extra bits and a sticky bit are enough for one rounding. -/
def F64.divFin (s : Bool) (m1 : Nat) (e1 : Int) (m2 : Nat) (e2 : Int) : F64 :=
  let n := m1 <<< 110
  let q := n / m2
  F64.round s (2 * q + (if n % m2 = 0 then 0 else 1)) (e1 - e2 - 111)

def F64.divNum (nan : F64) : Num → Num → F64
  | .nan, _ => nan
  | _, .nan => nan
  | .inf _, .inf _ => nan
  | .inf s1, .fin s2 _ _ => F64.inf (s1 ^^ s2)
  | .fin s1 _ _, .inf s2 => F64.zero (s1 ^^ s2)
  | .fin s1 m1 e1, .fin s2 m2 e2 =>
    if m2 = 0 then (if m1 = 0 then nan else F64.inf (s1 ^^ s2))
    else F64.divFin (s1 ^^ s2) m1 e1 m2 e2

def F64.div (a b : F64) : F64 := F64.divNum (F64.newNaN .div a b) (F64.unpack a) (F64.unpack b)

/-- The order of non-NaN patterns: sign and magnitude read as one integer; both zeros are 0. -/
def F64.key (x : F64) : Int := signedInt (F64.sign x) (x.extractLsb' 0 63).toNat

/-- R13: comparisons on NaN are false. -/
def F64.lt (a b : F64) : Bool := !F64.isNaN a && !F64.isNaN b && decide (F64.key a < F64.key b)

def F64.le (a b : F64) : Bool := !F64.isNaN a && !F64.isNaN b && decide (F64.key a ≤ F64.key b)

def F64.eq (a b : F64) : Bool := !F64.isNaN a && !F64.isNaN b && decide (F64.key a = F64.key b)

/-- R13 `clamp(x, lo, hi)`: a NaN x passes through; with lo > hi a value below lo yields lo. -/
def F64.clamp (x lo hi : F64) : F64 := if F64.lt x lo then lo else if F64.lt hi x then hi else x

/-- `f64(n)` of an unsigned integer. -/
def F64.ofNat (n : Nat) : F64 := F64.round false n 0

/-- The binary64 value nearest to n / d (n, d below 2^53), for decimal literals. -/
def F64.ofRatio (n d : Nat) : F64 := F64.div (F64.ofNat n) (F64.ofNat d)

/-- The integer part of a finite value's magnitude. -/
def F64.truncNat (x : F64) : Nat :=
  match F64.unpack x with
  | .fin _ m e => if 0 ≤ e then m <<< e.toNat else m >>> (-e).toNat
  | _ => 0

end Sys2Proof.Machine
end

