-- ==== Sys2Proof/Machine/Params.lean ====
section
/-! DEFINITION. The values 00_scope.md R9 fixes or decides. Those that are arguments of the step (R10) are the reset values of
State's `cfg`; the others stand here alone. -/

namespace Sys2Proof.Machine

/-- R9 DAC_MAX. -/
def dacMax : Nat := 0x3FFFF

/-- f64(DAC_MAX) = 262143.0 (R157, R192). -/
def dacMaxF : F64 := F64.ofNat dacMax

/-- R9 DAC_FS_NOMINAL, 5.0 V. -/
def dacFsNominal : F64 := F64.ofNat 5

/-- R9 I_GAIN * R_SENSE, 10.0 * 0.05 (R193). -/
def senseGain : F64 := F64.mul (F64.ofNat 10) (F64.ofRatio 5 100)

/-- 0x800000, the middle of the 24-bit range (R190). -/
def midScale : F64 := F64.ofNat 8388608

/-- R9 GAIN_NOMINAL, 0x400000. -/
def gainNominal : F64 := F64.ofNat 4194304

/-- R9 ADC_DIV, 2<<23. -/
def adcDiv : F64 := F64.ofNat 16777216

/-- R9 ADC_K, 0.75. -/
def adcK : F64 := F64.ofRatio 3 4

/-- R9 ADC_UNIPOLAR_SCALE, 1.0. -/
def adcUnipolarScale : F64 := F64.ofNat 1

/-- R9 SENTINEL. -/
def sentinel : AdcCode := 0xFFFFFF#24

/-- R9 KELVIN_OFFSET, 273.15. -/
def kelvinOffset : F64 := F64.ofRatio 27315 100

/-- R9 ADC_ID_FAMILY. -/
def adcIdFamily : BitVec 12 := 0x00D#12

/-- log2 of R9 CAL_START_STEP = 2^17. -/
def calStartLog : Nat := 17

/-- R9 CAL_TOL, 0.001 V. -/
def calTol : F64 := F64.ofRatio 1 1000

/-- R9 CAL_FIXED_TARGET, 2.5 V. -/
def calFixedTarget : F64 := F64.ofRatio 5 2

/-- R9 VREF_MEAS_INIT, 1.5 V. -/
def vrefMeasInit : F64 := F64.ofRatio 3 2

/-- R9 SH_T0_INIT, 298.15 K. -/
def shT0Init : F64 := F64.ofRatio 29815 100

/-- R9 SH_R0_INIT, 10000 ohms. -/
def shR0Init : F64 := F64.ofNat 10000

/-- R9 SH_B_INIT, 3950 K. -/
def shBInit : F64 := F64.ofNat 3950

/-- 1000.0, milliseconds per second (R195). -/
def msPerSecond : F64 := F64.ofNat 1000

/-- +0.0. -/
def zeroF : F64 := 0#64

/-- How many retries of one loop a step makes before it pauses while RETRY_LIMIT is UNBOUNDED. DESIGN CHOICE, log 5: it only
says where a long command is cut into steps. -/
def retriesPerStep : Nat := 1000

end Sys2Proof.Machine
end

