-- ==== Sys2Proof/Machine/AdcRegs.lean ====
section
/-! DEFINITION. The tables of the ADC chip, which 00_scope.md R9 makes parameters of the block: REG_TABLE (30_encoding.md R86 to
R96: addresses, widths, access, field layouts and codes), SETUP_CFG (R97) and POSTFILTER (R98), with the spec's defaults, and what
the block computes from them. The default is the AD7172-2's; a chip with another register map is another value (92_eei_decisions.md
D6, 91_not_in_source.md N1, 90_conflicts.md C10). -/

namespace Sys2Proof.Machine

/-- A row of REG_TABLE: address, payload width in bytes, and whether the block may write it (R57, R86). -/
structure RegRow where
  addr : RegAddr
  width : Nat
  writable : Bool
deriving DecidableEq, Repr

/-- A bit field of a register's big-endian value, by its highest and lowest bit (R127). -/
structure BitField where
  hi : Nat
  lo : Nat
deriving DecidableEq, Repr

/-- REG_TABLE: the rows, the address of each register the block uses (an indexed one by its base, R55), and the fields and codes
the block reads and writes in them. -/
structure RegTable where
  rows : List RegRow
  status : RegAddr
  adcMode : RegAddr
  ifMode : RegAddr
  data : RegAddr
  id : RegAddr
  ch : RegAddr
  setupCon : RegAddr
  filtCon : RegAddr
  offset : RegAddr
  gain : RegAddr
  /-- STATUS: the ready bit and the value that means ready (R87, 90_conflicts.md C10). -/
  ready : BitField
  readyCode : Nat
  channel : BitField
  /-- ADCMODE: MODE and the two codes the block writes (R88). -/
  mode : BitField
  systemOffset : Nat
  continuous : Nat
  /-- IFMODE: CRC_EN and its codes (R89, R90). -/
  crcEn : BitField
  crcOff : Nat
  crcXor : Nat
  crcCrc : Nat
  /-- ID: the family code (R91). -/
  idFamily : BitField
  /-- CH_i, and the input selectors that are not reserved (R92, R93). -/
  chEn : BitField
  setupSel : BitField
  ainPos : BitField
  ainNeg : BitField
  selectors : List (BitVec 5)
  /-- SETUPCON_i (R94). -/
  biUnipolar : BitField
  refBufPos : BitField
  refBufNeg : BitField
  ainBufPos : BitField
  ainBufNeg : BitField
  refSel : BitField
  /-- FILTCON_i (R95). -/
  enhFiltEn : BitField
  enhFilt : BitField
  order : BitField
  odr : BitField
deriving DecidableEq, Repr

/-- SETUP_CFG: the values ADC_SETUP_CHANNEL writes, but for SETUP_ODR, which is a parameter of its own (R97). -/
structure SetupCfg where
  biUnipolar : Nat
  refBufPos : Nat
  refBufNeg : Nat
  ainBufPos : Nat
  ainBufNeg : Nat
  refSel : Nat
  enhFiltEn : Nat
  enhFilt : Nat
  order : Nat
  chEn : Nat
deriving DecidableEq, Repr

/-- The three tables of R9. -/
structure AdcTables where
  regs : RegTable
  setup : SetupCfg
  /-- POSTFILTER: codes and rates, in table order (R98). -/
  postfilters : List (BitVec 3 × F64)
deriving DecidableEq, Repr

/-! The defaults. -/

/-- R86: the registers that are not indexed. -/
def plainRows : List RegRow :=
  [⟨0x00#6, 1, false⟩, ⟨0x01#6, 2, true⟩, ⟨0x02#6, 2, true⟩, ⟨0x03#6, 3, false⟩, ⟨0x04#6, 3, false⟩, ⟨0x06#6, 2, true⟩,
    ⟨0x07#6, 2, false⟩]

/-- R86: the registers with four indices each: CH_i, SETUPCON_i, FILTCON_i, OFFSET_i, GAIN_i. -/
def indexedRows : List RegRow :=
  [⟨0x10#6, 2, true⟩, ⟨0x11#6, 2, true⟩, ⟨0x12#6, 2, true⟩, ⟨0x13#6, 2, true⟩,
    ⟨0x20#6, 2, true⟩, ⟨0x21#6, 2, true⟩, ⟨0x22#6, 2, true⟩, ⟨0x23#6, 2, true⟩,
    ⟨0x28#6, 2, true⟩, ⟨0x29#6, 2, true⟩, ⟨0x2A#6, 2, true⟩, ⟨0x2B#6, 2, true⟩,
    ⟨0x30#6, 3, true⟩, ⟨0x31#6, 3, true⟩, ⟨0x32#6, 3, true⟩, ⟨0x33#6, 3, true⟩,
    ⟨0x38#6, 3, true⟩, ⟨0x39#6, 3, true⟩, ⟨0x3A#6, 3, true⟩, ⟨0x3B#6, 3, true⟩]

/-- REG_TABLE's default (R86 to R96). -/
def defaultRegs : RegTable where
  rows := plainRows ++ indexedRows
  status := 0x00#6
  adcMode := 0x01#6
  ifMode := 0x02#6
  data := 0x04#6
  id := 0x07#6
  ch := 0x10#6
  setupCon := 0x20#6
  filtCon := 0x28#6
  offset := 0x30#6
  gain := 0x38#6
  ready := ⟨7, 7⟩
  readyCode := 0
  channel := ⟨1, 0⟩
  mode := ⟨6, 4⟩
  systemOffset := 0b110
  continuous := 0b000
  crcEn := ⟨3, 2⟩
  crcOff := 0b00
  crcXor := 0b01
  crcCrc := 0b10
  idFamily := ⟨15, 4⟩
  chEn := ⟨15, 15⟩
  setupSel := ⟨13, 12⟩
  ainPos := ⟨9, 5⟩
  ainNeg := ⟨4, 0⟩
  selectors := [0b00000#5, 0b00001#5, 0b00010#5, 0b00011#5, 0b00100#5, 0b10001#5, 0b10010#5, 0b10011#5, 0b10100#5, 0b10101#5,
    0b10110#5]
  biUnipolar := ⟨12, 12⟩
  refBufPos := ⟨11, 11⟩
  refBufNeg := ⟨10, 10⟩
  ainBufPos := ⟨9, 9⟩
  ainBufNeg := ⟨8, 8⟩
  refSel := ⟨5, 4⟩
  enhFiltEn := ⟨11, 11⟩
  enhFilt := ⟨10, 8⟩
  order := ⟨6, 5⟩
  odr := ⟨4, 0⟩

/-- SETUP_CFG's default (R97): unipolar, all four buffers on, external reference, postfilter on at 16.67 SPS, Sinc5+Sinc1. -/
def defaultSetup : SetupCfg where
  biUnipolar := 0
  refBufPos := 1
  refBufNeg := 1
  ainBufPos := 1
  ainBufNeg := 1
  refSel := 0b00
  enhFiltEn := 1
  enhFilt := 0b110
  order := 0b00
  chEn := 1

/-- POSTFILTER's default (R98). -/
def defaultPostfilters : List (BitVec 3 × F64) :=
  [(0b010#3, F64.ofNat 27), (0b011#3, F64.ofRatio 2125 100), (0b101#3, F64.ofNat 20), (0b110#3, F64.ofRatio 1667 100)]

/-- The three defaults. -/
def defaultTables : AdcTables := ⟨defaultRegs, defaultSetup, defaultPostfilters⟩

/-! Rows and addresses. -/

/-- R86: the row of an address. -/
def RegTable.row (t : RegTable) (a : RegAddr) : Option RegRow := t.rows.find? (fun r => r.addr == a)

/-- R57: the address is in REG_TABLE. -/
def RegTable.known (t : RegTable) (a : RegAddr) : Bool := (t.row a).isSome

/-- R57: the address is in REG_TABLE and not read-only. -/
def RegTable.writable (t : RegTable) (a : RegAddr) : Bool :=
  match t.row a with
  | some r => r.writable
  | none => false

/-- R127 `W(addr)`; 0 for an address outside REG_TABLE, which no transfer names (R57). -/
def RegTable.width (t : RegTable) (a : RegAddr) : Nat :=
  match t.row a with
  | some r => r.width
  | none => 0

/-- R106, R149, R150: no bit of an operand above the register's width. -/
def RegTable.fits (t : RegTable) (a : RegAddr) (v : BitVec 32) : Bool := decide (v.toNat < 2 ^ (8 * t.width a))

/-- R93: an input selector that is not reserved. -/
def RegTable.selectorLegal (t : RegTable) (v : BitVec 5) : Bool := t.selectors.contains v

/-- R98, R103: an ENHFILT code that is a PostFilter value. -/
def AdcTables.postfilterLegal (T : AdcTables) (v : BitVec 3) : Bool := (T.postfilters.map (·.1)).contains v

/-- R55: an indexed register is its base plus the channel index. -/
def regIndexed (base : RegAddr) : Ch → RegAddr
  | .c0 => base
  | .c1 => base + 1#6

/-- R83: a read's command byte, 0x40 | addr. -/
def readCmdByte (a : RegAddr) : Byte := 0b01#2 ++ a

/-- R83: a write's command byte, addr with bit 6 clear. -/
def writeCmdByte (a : RegAddr) : Byte := 0b00#2 ++ a

/-! Fields. -/

/-- A field read from a register's value. -/
def getField (f : BitField) (v : BitVec 32) : Nat := (v.toNat >>> f.lo) % 2 ^ (f.hi + 1 - f.lo)

/-- Some fields written, one after the other, every other bit kept (R127, R134). -/
def setFields (l : List (BitField × Nat)) (v : BitVec 32) : BitVec 32 :=
  l.foldl (fun v e => setField e.1.hi e.1.lo e.2 v) v

/-- R87: the ready condition of a STATUS value. -/
def RegTable.statusReady (t : RegTable) (v : BitVec 32) : Bool := getField t.ready v == t.readyCode

/-- R87: the ADC channel whose result is in DATA. -/
def RegTable.statusChannel (t : RegTable) (v : BitVec 32) : Nat := getField t.channel v

/-- R91: the family code of an ID. -/
def RegTable.family (t : RegTable) (id : BitVec 16) : Nat := getField t.idFamily (id.setWidth 32)

/-- R94, R140: BI_UNIPOLAR is 1, bipolar. -/
def RegTable.isBipolar (t : RegTable) (su : BitVec 32) : Bool := getField t.biUnipolar su == 1

/-- R88: ADCMODE.MODE. -/
def RegTable.setMode (t : RegTable) (code : Nat) (v : BitVec 32) : BitVec 32 := setFields [(t.mode, code)] v

/-- R90: the CRC_EN code of a checksum mode. -/
def RegTable.crcCode (t : RegTable) : CkMode → Nat
  | .off => t.crcOff
  | .xor => t.crcXor
  | .crc => t.crcCrc

/-- R89, R137: IFMODE.CRC_EN. -/
def RegTable.setCrcEn (t : RegTable) (m : CkMode) (v : BitVec 32) : BitVec 32 := setFields [(t.crcEn, t.crcCode m)] v

/-- R97: the SETUPCON fields of SETUP_CFG. -/
def AdcTables.setSetupCon (T : AdcTables) (v : BitVec 32) : BitVec 32 :=
  setFields
    [(T.regs.biUnipolar, T.setup.biUnipolar), (T.regs.refBufPos, T.setup.refBufPos), (T.regs.refBufNeg, T.setup.refBufNeg),
      (T.regs.ainBufPos, T.setup.ainBufPos), (T.regs.ainBufNeg, T.setup.ainBufNeg), (T.regs.refSel, T.setup.refSel)] v

/-- R97: the FILTCON fields of SETUP_CFG, ODR from SETUP_ODR. -/
def AdcTables.setFiltCon (T : AdcTables) (odr : BitVec 5) (v : BitVec 32) : BitVec 32 :=
  setFields
    [(T.regs.enhFiltEn, T.setup.enhFiltEn), (T.regs.enhFilt, T.setup.enhFilt), (T.regs.order, T.setup.order),
      (T.regs.odr, odr.toNat)] v

/-- The 0/1 index of a channel. -/
def chIndex : Ch → Nat
  | .c0 => 0
  | .c1 => 1

/-- R92, R97: the CH fields: enabled, setup i, the two inputs. -/
def AdcTables.setChReg (T : AdcTables) (i : Ch) (inPos inNeg : BitVec 5) (v : BitVec 32) : BitVec 32 :=
  setFields
    [(T.regs.chEn, T.setup.chEn), (T.regs.setupSel, chIndex i), (T.regs.ainPos, inPos.toNat), (T.regs.ainNeg, inNeg.toNat)] v

/-- R95, R142: enabling writes ENHFILTEN and the rate code; disabling clears ENHFILTEN and keeps the code. -/
def RegTable.setPostfilter (t : RegTable) (code : Option (BitVec 3)) (v : BitVec 32) : BitVec 32 :=
  match code with
  | some c => setFields [(t.enhFiltEn, 1), (t.enhFilt, c.toNat)] v
  | none => setFields [(t.enhFiltEn, 0)] v

/-- R95, R141: the rate code of an enabled postfilter; none when it is off or its code is no PostFilter value. -/
def AdcTables.postfilterOf (T : AdcTables) (v : BitVec 32) : Option (BitVec 3) :=
  if getField T.regs.enhFiltEn v = 1 then
    (T.postfilters.map (·.1)).find? (fun c => c.toNat == getField T.regs.enhFilt v)
  else none

end Sys2Proof.Machine
end

