-- ==== Sys2Proof/Machine/Codes.lean ====
section
/-! DEFINITION. The field codes of the command word and of CH_READ_FIELD (30_encoding.md R90, R102 to R104; 47_channel.md R211),
each with its reading back. -/

namespace Sys2Proof.Machine

/-- R90. -/
def ckModeCode : CkMode → BitVec 2
  | .off => 0b00#2
  | .xor => 0b01#2
  | .crc => 0b10#2

/-- R90: 0b11 is reserved. -/
def ckModeOf (v : BitVec 2) : Option CkMode :=
  match v.toNat with
  | 0 => some .off
  | 1 => some .xor
  | 2 => some .crc
  | _ => none

def chCode : Ch → BitVec 3
  | .c0 => 0#3
  | .c1 => 1#3

/-- R105: IDX ≥ 2 is illegal for a channel. -/
def chOf (v : BitVec 3) : Option Ch :=
  match v.toNat with
  | 0 => some .c0
  | 1 => some .c1
  | _ => none

def slotCode : Slot → BitVec 3
  | .k0 => 0#3
  | .k1 => 1#3
  | .k2 => 2#3
  | .k3 => 3#3
  | .k4 => 4#3
  | .k5 => 5#3
  | .k6 => 6#3
  | .k7 => 7#3

def slotOf (v : BitVec 3) : Slot :=
  match v.toNat with
  | 0 => .k0
  | 1 => .k1
  | 2 => .k2
  | 3 => .k3
  | 4 => .k4
  | 5 => .k5
  | 6 => .k6
  | _ => .k7

def coeffCode : Coeff → BitVec 3
  | .b0 => 0#3
  | .b1 => 1#3
  | .b2 => 2#3
  | .a1 => 3#3
  | .a2 => 4#3

/-- R102. -/
def coeffOf (v : BitVec 3) : Option Coeff :=
  match v.toNat with
  | 0 => some .b0
  | 1 => some .b1
  | 2 => some .b2
  | 3 => some .a1
  | 4 => some .a2
  | _ => none

def pidParamCode : PidParam → BitVec 3
  | .target => 0#3
  | .kp => 1#3
  | .kd => 2#3
  | .outputMin => 3#3
  | .outputMax => 4#3
  | .integralMin => 5#3
  | .integralMax => 6#3

/-- R102. -/
def pidParamOf (v : BitVec 3) : Option PidParam :=
  match v.toNat with
  | 0 => some .target
  | 1 => some .kp
  | 2 => some .kd
  | 3 => some .outputMin
  | 4 => some .outputMax
  | 5 => some .integralMin
  | 6 => some .integralMax
  | _ => none

def shParamCode : ShParam → BitVec 3
  | .t0 => 0#3
  | .r0 => 1#3
  | .b => 2#3

/-- R102. -/
def shParamOf (v : BitVec 3) : Option ShParam :=
  match v.toNat with
  | 0 => some .t0
  | 1 => some .r0
  | 2 => some .b
  | _ => none

def roleCode : Role → BitVec 3
  | .input => 0#3
  | .target => 1#3

/-- R102. -/
def roleOf (v : BitVec 3) : Option Role :=
  match v.toNat with
  | 0 => some .input
  | 1 => some .target
  | _ => none

def centerSelCode : CenterSel → BitVec 3
  | .vref => 0#3
  | .override => 1#3

/-- R102. -/
def centerSelOf (v : BitVec 3) : Option CenterSel :=
  match v.toNat with
  | 0 => some .vref
  | 1 => some .override
  | _ => none

def limitCode : Limit → BitVec 3
  | .maxIPos => 0#3
  | .maxINeg => 1#3
  | .maxV => 2#3

/-- R102. -/
def limitOf (v : BitVec 3) : Option Limit :=
  match v.toNat with
  | 0 => some .maxIPos
  | 1 => some .maxINeg
  | 2 => some .maxV
  | _ => none

/-- R104: 0b00000 CONST, 0b00001 TEMP(0), 0b00010 TEMP(1), 0b01000 + j FILTER(j). -/
def sourceCode : Source → BitVec 5
  | .const => 0b00000#5
  | .temp .c0 => 0b00001#5
  | .temp .c1 => 0b00010#5
  | .filter k => 0b01#2 ++ slotCode k

/-- R104: every other value is illegal. -/
def sourceOf (v : BitVec 5) : Option Source :=
  match v.toNat with
  | 0 => some .const
  | 1 => some (.temp .c0)
  | 2 => some (.temp .c1)
  | _ => if v.extractLsb' 3 2 = 0b01#2 then some (.filter (slotOf (v.extractLsb' 0 3))) else none

/-- Whose field a CH_READ_FIELD id names (R211). -/
inductive FieldClass where
  | channel
  | matrix
  | block
deriving DecidableEq, Repr

/-- The ids of R211's table; any other id is illegal. -/
def fieldClass (id : BitVec 8) : Option FieldClass :=
  let n := id.toNat
  if n ≤ 0x13 then some .channel
  else if 0x20 ≤ n ∧ n ≤ 0x2A then some .channel
  else if 0x30 ≤ n ∧ n ≤ 0x3A then some .channel
  else if 0x40 ≤ n ∧ n ≤ 0x42 then some .channel
  else if 0x50 ≤ n ∧ n ≤ 0x52 then some .channel
  else if 0x60 ≤ n ∧ n ≤ 0x6E then some .matrix
  else if 0xF0 ≤ n ∧ n ≤ 0xF8 then some .block
  else none

/-- R211: a channel field takes IDX 0 or 1, a matrix field any slot, a block field IDX 0. -/
def fieldIdxLegal : FieldClass → BitVec 3 → Bool
  | .channel, idx => (chOf idx).isSome
  | .matrix, _ => true
  | .block, idx => idx == 0#3

/-- R211: the id is in the table and IDX fits it. -/
def fieldLegal (idx : BitVec 3) (id : BitVec 8) : Bool :=
  match fieldClass id with
  | some c => fieldIdxLegal c idx
  | none => false

end Sys2Proof.Machine
end

