-- ==== Sys2Proof/WellFormed.lean ====
section
/-! DEFINITION. The checks of 30_encoding.md R106 that the syntax does not already rule out: register addresses (R57),
input selectors (R93), PostFilter codes (R103) and field ids (R211). The first three are those of the block's own tables, which are
parameters (00_scope.md R9, 92_eei_decisions.md D6). -/

namespace Sys2Proof

/-- An instruction the encoding admits on a block with these tables. -/
def Instr.wellFormed (T : Machine.AdcTables) : Instr → Bool
  | .adcReadReg a => T.regs.known a
  | .adcWriteReg a => T.regs.writable a
  | .adcUpdateReg a => T.regs.writable a
  | .adcSetupChannel _ inPos inNeg => T.regs.selectorLegal inPos && T.regs.selectorLegal inNeg
  | .adcSetPostfilter _ (some code) => T.postfilterLegal code
  | .adcSetPostfilter _ none => true
  | .chReadField idx id => Machine.fieldLegal idx id
  | .ckInit _ | .ckFeed _ | .ckResult => true
  | .adcReset | .adcIdentify | .adcSetChecksumMode _ | .adcCalibrateOffset => true
  | .adcGetCalibration _ | .adcGetPostfilter _ | .adcPostfilterClosest => true
  | .adcDataReady | .adcReadData | .adcInit => true
  | .dacInit _ | .dacSetCode _ | .dacSetVolts _ => true
  | .shGetTemperature _ | .shSetParam _ _ => true
  | .pidUpdate _ | .pidUpdateKi _ | .pidSetParam _ _ => true
  | .iirTick _ | .iirSetCoeff _ _ | .iirSetTarget _ => true
  | .mtxTick | .mtxSetCoeff _ _ | .mtxSetSource _ _ _ => true
  | .chConvertData _ | .chSample _ | .chGetTemperature _ | .chSetI _ | .chGetI _ => true
  | .chSetDacVolts _ | .chSetCenter _ _ => true
  | .chSetPidEngaged _ _ | .chSetIirEngaged _ _ | .chSetMtxSel _ _ => true
  | .chSetTecEn _ _ | .chSetPwmLimit _ _ | .chCalibrateDac _ => true
  | .pollAdc | .blockInit => true
  | .spiReadCmd _ | .spiWriteCmd _ | .spiResetFrame | .dacWord _ => true

end Sys2Proof
end

