-- ==== Sys2Proof/Decode.lean ====
section
/-! DEFINITION. The decoder and the encoder of the four formats (30_encoding.md R82, R85, R100 to R107). The decoder
is total and rejects by name; checks go in the order OPC, IDX, SUB, IMM (60_exceptions.md R225), but in CH_READ_FIELD, whose legal
IDX depends on the field id in IMM: there IDX is checked last (log 21, the model's choice). -/

namespace Sys2Proof

open Machine

/-- Why an encoding is refused (R106). -/
inductive Reject where
  | opc
  | idx
  | sub
  | imm
  | wire
deriving DecidableEq, Repr

/-- R101: OPC, bits 31:24. -/
def opcOf (w : BitVec 32) : BitVec 8 := w.extractLsb' 24 8

/-- R101: IDX, bits 23:21. -/
def idxOf (w : BitVec 32) : BitVec 3 := w.extractLsb' 21 3

/-- R101: SUB, bits 20:18. -/
def subOf (w : BitVec 32) : BitVec 3 := w.extractLsb' 18 3

/-- R101: IMM, bits 17:0. -/
def immOf (w : BitVec 32) : BitVec 18 := w.extractLsb' 0 18

/-- A field reading that may be illegal. -/
def orReject {α : Type} (r : Reject) : Option α → Except Reject α
  | some a => .ok a
  | none => .error r

/-- A check that may fail. -/
def check (r : Reject) (ok : Bool) : Except Reject Unit := if ok then .ok () else .error r

/-- R105 "ch": IDX is 0 or 1. -/
def decCh (w : BitVec 32) : Except Reject Ch := orReject .idx (chOf (idxOf w))

/-- R105 "-": IDX is 0. -/
def noIdx (w : BitVec 32) : Except Reject Unit := check .idx (idxOf w == 0#3)

/-- R102: SUB is 0. -/
def noSub (w : BitVec 32) : Except Reject Unit := check .sub (subOf w == 0#3)

/-- R103: IMM is 0. -/
def noImm (w : BitVec 32) : Except Reject Unit := check .imm (immOf w == 0#18)

/-- R103: the IMM bits a form does not name are 0; the form names the low n bits. -/
def immBits (n : Nat) (w : BitVec 32) : Except Reject (BitVec n) :=
  if immOf w = ((immOf w).setWidth n).setWidth 18 then .ok ((immOf w).setWidth n) else .error .imm

/-- R103 mode form. -/
def decMode (w : BitVec 32) : Except Reject CkMode := do
  let v ← immBits 2 w
  orReject .imm (ckModeOf v)

/-- R103 flag form. -/
def decFlag (w : BitVec 32) : Except Reject Bool := do
  let v ← immBits 1 w
  .ok (v == 1#1)

/-- R103 address form with R57's check. -/
def decAddr (legal : RegAddr → Bool) (w : BitVec 32) : Except Reject RegAddr := do
  let a ← immBits 6 w
  check .imm (legal a)
  .ok a

/-- R103 input form: IMM[4:0] in_pos, IMM[9:5] in_neg. -/
def decInputs (t : RegTable) (w : BitVec 32) : Except Reject (BitVec 5 × BitVec 5) := do
  let v ← immBits 10 w
  let p := v.extractLsb' 0 5
  let n := v.extractLsb' 5 5
  check .imm (t.selectorLegal p && t.selectorLegal n)
  .ok (p, n)

/-- R103 postfilter form: IMM[3] enable, IMM[2:0] code. -/
def decPostfilter (T : AdcTables) (w : BitVec 32) : Except Reject (Option (BitVec 3)) := do
  let v ← immBits 4 w
  let code := v.extractLsb' 0 3
  if v.getLsbD 3 then
    check .imm (T.postfilterLegal code)
    .ok (some code)
  else
    check .imm (code == 0#3)
    .ok none

/-- R103 matrix-select form: IMM[3] valid, IMM[2:0] slot. -/
def decMtxSel (w : BitVec 32) : Except Reject (Option Slot) := do
  let v ← immBits 4 w
  let k := v.extractLsb' 0 3
  if v.getLsbD 3 then .ok (some (slotOf k))
  else
    check .imm (k == 0#3)
    .ok none

/-- R103 source form. -/
def decSource (w : BitVec 32) : Except Reject Source := do
  let v ← immBits 5 w
  orReject .imm (sourceOf v)

/-- IDX and SUB both unused. -/
def noIdxSub (w : BitVec 32) : Except Reject Unit := do
  noIdx w
  noSub w

/-- A command with no field but OPC. -/
def plain (i : Instr) (w : BitVec 32) : Except Reject Instr := do
  noIdxSub w
  noImm w
  .ok i

/-- A command with a channel and no other field. -/
def chOnly (f : Ch → Instr) (w : BitVec 32) : Except Reject Instr := do
  let ch ← decCh w
  noSub w
  noImm w
  .ok (f ch)

/-- A command with a channel, a SUB reading and no immediate. -/
def chSub {α : Type} (f : Ch → α → Instr) (of : BitVec 3 → Option α) (w : BitVec 32) : Except Reject Instr := do
  let ch ← decCh w
  let p ← orReject .sub (of (subOf w))
  noImm w
  .ok (f ch p)

/-- A command with a channel, SUB 0 and an immediate form. -/
def chImm {α : Type} (f : Ch → α → Instr) (dec : BitVec 32 → Except Reject α) (w : BitVec 32) : Except Reject Instr := do
  let ch ← decCh w
  noSub w
  let v ← dec w
  .ok (f ch v)

/-- A command with IDX and SUB 0 and an immediate form. -/
def immOnly {α : Type} (f : α → Instr) (dec : BitVec 32 → Except Reject α) (w : BitVec 32) : Except Reject Instr := do
  noIdxSub w
  let v ← dec w
  .ok (f v)

/-- R211: IDX and the field id; an id outside the table is an IMM error, an IDX that does not fit the id an IDX error.
DESIGN CHOICE (safe): how the order of R225 applies to an IDX whose legality depends on IMM is open; here SUB, IMM and the id are
checked before IDX (log 21). Every one of these refusals is reported alike, as IllegalCommand(CMD) (R215). -/
def decField (w : BitVec 32) : Except Reject Instr := do
  noSub w
  let id ← immBits 8 w
  let c ← orReject .imm (fieldClass id)
  check .idx (fieldIdxLegal c (idxOf w))
  .ok (.chReadField (idxOf w) id)

/-- R107: OPC selects the row of R105; IDX, SUB and IMM are checked against it. -/
def decodeCmd (T : AdcTables) (w : BitVec 32) : Except Reject Instr :=
  match (opcOf w).toNat with
  | 0x01 => immOnly .ckInit decMode w
  | 0x02 => immOnly .ckFeed (immBits 8) w
  | 0x03 => plain .ckResult w
  | 0x10 => plain .adcReset w
  | 0x11 => immOnly .adcReadReg (decAddr T.regs.known) w
  | 0x12 => immOnly .adcWriteReg (decAddr T.regs.writable) w
  | 0x13 => immOnly .adcUpdateReg (decAddr T.regs.writable) w
  | 0x14 => plain .adcIdentify w
  | 0x15 => immOnly .adcSetChecksumMode decMode w
  | 0x16 => chImm (fun ch p => .adcSetupChannel ch p.1 p.2) (decInputs T.regs) w
  | 0x17 => plain .adcCalibrateOffset w
  | 0x18 => chOnly .adcGetCalibration w
  | 0x19 => chOnly .adcGetPostfilter w
  | 0x1A => chImm .adcSetPostfilter (decPostfilter T) w
  | 0x1B => plain .adcPostfilterClosest w
  | 0x1C => plain .adcDataReady w
  | 0x1D => plain .adcReadData w
  | 0x1E => plain .adcInit w
  | 0x20 => chOnly .dacInit w
  | 0x21 => chOnly .dacSetCode w
  | 0x22 => chOnly .dacSetVolts w
  | 0x30 => chOnly .shGetTemperature w
  | 0x31 => chSub .shSetParam shParamOf w
  | 0x40 => chOnly .pidUpdate w
  | 0x41 => chOnly .pidUpdateKi w
  | 0x42 => chSub .pidSetParam pidParamOf w
  | 0x50 => chOnly .iirTick w
  | 0x51 => chSub .iirSetCoeff coeffOf w
  | 0x52 => chOnly .iirSetTarget w
  | 0x54 => plain .mtxTick w
  | 0x55 => do
    let c ← orReject .sub (coeffOf (subOf w))
    noImm w
    .ok (.mtxSetCoeff (slotOf (idxOf w)) c)
  | 0x56 => do
    let r ← orReject .sub (roleOf (subOf w))
    let s ← decSource w
    .ok (.mtxSetSource (slotOf (idxOf w)) r s)
  | 0x60 => chOnly .chConvertData w
  | 0x61 => chOnly .chSample w
  | 0x62 => chOnly .chGetTemperature w
  | 0x63 => chOnly .chSetI w
  | 0x64 => chOnly .chGetI w
  | 0x65 => chOnly .chSetDacVolts w
  | 0x66 => chSub .chSetCenter centerSelOf w
  | 0x67 => chImm .chSetPidEngaged decFlag w
  | 0x68 => chImm .chSetIirEngaged decFlag w
  | 0x69 => chImm .chSetMtxSel decMtxSel w
  | 0x6A => chImm .chSetTecEn decFlag w
  | 0x6B => chSub .chSetPwmLimit limitOf w
  | 0x6C => chOnly .chCalibrateDac w
  | 0x6D => decField w
  | 0x70 => plain .pollAdc w
  | 0x71 => plain .blockInit w
  | _ => .error .opc

/-- R82: WEN (bit 7) is 0; bit 6 selects read or write. -/
def decodeSpi8 (b : BitVec 8) : Except Reject Instr :=
  if b.getLsbD 7 then .error .wire
  else if b.getLsbD 6 then .ok (.spiReadCmd (b.extractLsb' 0 6))
  else .ok (.spiWriteCmd (b.extractLsb' 0 6))

/-- R85: 64 one bits. -/
def decodeReset64 (w : BitVec 64) : Except Reject Instr :=
  if w = BitVec.allOnes 64 then .ok .spiResetFrame else .error .wire

/-- R100: bits 23:20 and 1:0 are 0, bits 19:2 the code. -/
def decodeDac24 (w : BitVec 24) : Except Reject Instr :=
  if w.extractLsb' 20 4 = 0#4 ∧ w.extractLsb' 0 2 = 0#2 then .ok (.dacWord (w.extractLsb' 2 18)) else .error .wire

/-- The decoder of a block with these tables (R57, R93, R103; 92_eei_decisions.md D6). -/
def decode (T : AdcTables) : Raw → Except Reject Instr
  | .cmd32 w => decodeCmd T w
  | .spi8 b => decodeSpi8 b
  | .reset64 w => decodeReset64 w
  | .dac24 w => decodeDac24 w

/-- R101: a command word from its fields. -/
def cmdWord (opc : BitVec 8) (idx sub : BitVec 3) (imm : BitVec 18) : Raw := .cmd32 (opc ++ idx ++ sub ++ imm)

/-- R103: the immediate of an optional code: valid or enable bit 3 over three code bits. -/
def optImm : Option (BitVec 3) → BitVec 18
  | none => 0#18
  | some c => ((1#1 ++ c).setWidth 18)

/-- R103: the immediate of a flag. -/
def flagImm (f : Bool) : BitVec 18 := if f then 1#18 else 0#18

/-- The encoder (R82, R85, R100, R105). -/
def encode : Instr → Raw
  | .ckInit m => cmdWord 0x01#8 0#3 0#3 ((ckModeCode m).setWidth 18)
  | .ckFeed b => cmdWord 0x02#8 0#3 0#3 (b.setWidth 18)
  | .ckResult => cmdWord 0x03#8 0#3 0#3 0#18
  | .adcReset => cmdWord 0x10#8 0#3 0#3 0#18
  | .adcReadReg a => cmdWord 0x11#8 0#3 0#3 (a.setWidth 18)
  | .adcWriteReg a => cmdWord 0x12#8 0#3 0#3 (a.setWidth 18)
  | .adcUpdateReg a => cmdWord 0x13#8 0#3 0#3 (a.setWidth 18)
  | .adcIdentify => cmdWord 0x14#8 0#3 0#3 0#18
  | .adcSetChecksumMode m => cmdWord 0x15#8 0#3 0#3 ((ckModeCode m).setWidth 18)
  | .adcSetupChannel ch p n => cmdWord 0x16#8 (chCode ch) 0#3 ((n ++ p).setWidth 18)
  | .adcCalibrateOffset => cmdWord 0x17#8 0#3 0#3 0#18
  | .adcGetCalibration ch => cmdWord 0x18#8 (chCode ch) 0#3 0#18
  | .adcGetPostfilter ch => cmdWord 0x19#8 (chCode ch) 0#3 0#18
  | .adcSetPostfilter ch c => cmdWord 0x1A#8 (chCode ch) 0#3 (optImm c)
  | .adcPostfilterClosest => cmdWord 0x1B#8 0#3 0#3 0#18
  | .adcDataReady => cmdWord 0x1C#8 0#3 0#3 0#18
  | .adcReadData => cmdWord 0x1D#8 0#3 0#3 0#18
  | .adcInit => cmdWord 0x1E#8 0#3 0#3 0#18
  | .dacInit ch => cmdWord 0x20#8 (chCode ch) 0#3 0#18
  | .dacSetCode ch => cmdWord 0x21#8 (chCode ch) 0#3 0#18
  | .dacSetVolts ch => cmdWord 0x22#8 (chCode ch) 0#3 0#18
  | .shGetTemperature ch => cmdWord 0x30#8 (chCode ch) 0#3 0#18
  | .shSetParam ch p => cmdWord 0x31#8 (chCode ch) (shParamCode p) 0#18
  | .pidUpdate ch => cmdWord 0x40#8 (chCode ch) 0#3 0#18
  | .pidUpdateKi ch => cmdWord 0x41#8 (chCode ch) 0#3 0#18
  | .pidSetParam ch p => cmdWord 0x42#8 (chCode ch) (pidParamCode p) 0#18
  | .iirTick ch => cmdWord 0x50#8 (chCode ch) 0#3 0#18
  | .iirSetCoeff ch c => cmdWord 0x51#8 (chCode ch) (coeffCode c) 0#18
  | .iirSetTarget ch => cmdWord 0x52#8 (chCode ch) 0#3 0#18
  | .mtxTick => cmdWord 0x54#8 0#3 0#3 0#18
  | .mtxSetCoeff k c => cmdWord 0x55#8 (slotCode k) (coeffCode c) 0#18
  | .mtxSetSource k r s => cmdWord 0x56#8 (slotCode k) (roleCode r) ((sourceCode s).setWidth 18)
  | .chConvertData ch => cmdWord 0x60#8 (chCode ch) 0#3 0#18
  | .chSample ch => cmdWord 0x61#8 (chCode ch) 0#3 0#18
  | .chGetTemperature ch => cmdWord 0x62#8 (chCode ch) 0#3 0#18
  | .chSetI ch => cmdWord 0x63#8 (chCode ch) 0#3 0#18
  | .chGetI ch => cmdWord 0x64#8 (chCode ch) 0#3 0#18
  | .chSetDacVolts ch => cmdWord 0x65#8 (chCode ch) 0#3 0#18
  | .chSetCenter ch c => cmdWord 0x66#8 (chCode ch) (centerSelCode c) 0#18
  | .chSetPidEngaged ch f => cmdWord 0x67#8 (chCode ch) 0#3 (flagImm f)
  | .chSetIirEngaged ch f => cmdWord 0x68#8 (chCode ch) 0#3 (flagImm f)
  | .chSetMtxSel ch s => cmdWord 0x69#8 (chCode ch) 0#3 (optImm (s.map slotCode))
  | .chSetTecEn ch f => cmdWord 0x6A#8 (chCode ch) 0#3 (flagImm f)
  | .chSetPwmLimit ch l => cmdWord 0x6B#8 (chCode ch) (limitCode l) 0#18
  | .chCalibrateDac ch => cmdWord 0x6C#8 (chCode ch) 0#3 0#18
  | .chReadField idx id => cmdWord 0x6D#8 idx 0#3 (id.setWidth 18)
  | .pollAdc => cmdWord 0x70#8 0#3 0#3 0#18
  | .blockInit => cmdWord 0x71#8 0#3 0#3 0#18
  | .spiReadCmd a => .spi8 (readCmdByte a)
  | .spiWriteCmd a => .spi8 (writeCmdByte a)
  | .spiResetFrame => .reset64 (BitVec.allOnes 64)
  | .dacWord c => .dac24 (0#4 ++ c ++ 0#2)

/-- An instruction's bits as spec/opcode_table.json numbers them, in the format a row of nbits bits has: 8 SPI_CMD8,
24 DAC24, 64 RESET64, otherwise a command word. -/
def rawOf (nbits w : Nat) : Raw :=
  if nbits = 8 then .spi8 (BitVec.ofNat 8 w)
  else if nbits = 24 then .dac24 (BitVec.ofNat 24 w)
  else if nbits = 64 then .reset64 (BitVec.ofNat 64 w)
  else .cmd32 (BitVec.ofNat 32 w)

/-- The instruction the decoder reads from an instruction whose bits are w, with the tables the block has at reset. -/
def decodeTableWord (nbits w : Nat) : Option Instr :=
  match decode defaultTables (rawOf nbits w) with
  | .ok i => some i
  | .error _ => none

end Sys2Proof
end

