-- ==== Sys2Proof/Machine/Indexed.lean ====
section
/-! DEFINITION. Per-channel pairs, per-slot octets and 5-element vectors, as plain structures (10_state.md R23, R46, R52). -/

namespace Sys2Proof.Machine

/-- One value per channel. -/
structure PerCh (α : Type) where
  c0 : α
  c1 : α
deriving DecidableEq, Repr

def PerCh.get {α : Type} (p : PerCh α) : Ch → α
  | .c0 => p.c0
  | .c1 => p.c1

def PerCh.set {α : Type} (p : PerCh α) (i : Ch) (v : α) : PerCh α :=
  match i with
  | .c0 => { p with c0 := v }
  | .c1 => { p with c1 := v }

/-- One value per matrix slot. -/
structure PerSlot (α : Type) where
  m0 : α
  m1 : α
  m2 : α
  m3 : α
  m4 : α
  m5 : α
  m6 : α
  m7 : α
deriving DecidableEq, Repr

def PerSlot.get {α : Type} (p : PerSlot α) : Slot → α
  | .k0 => p.m0
  | .k1 => p.m1
  | .k2 => p.m2
  | .k3 => p.m3
  | .k4 => p.m4
  | .k5 => p.m5
  | .k6 => p.m6
  | .k7 => p.m7

def PerSlot.set {α : Type} (p : PerSlot α) (k : Slot) (v : α) : PerSlot α :=
  match k with
  | .k0 => { p with m0 := v }
  | .k1 => { p with m1 := v }
  | .k2 => { p with m2 := v }
  | .k3 => { p with m3 := v }
  | .k4 => { p with m4 := v }
  | .k5 => { p with m5 := v }
  | .k6 => { p with m6 := v }
  | .k7 => { p with m7 := v }

def PerSlot.map {α β : Type} (f : α → β) (p : PerSlot α) : PerSlot β :=
  ⟨f p.m0, f p.m1, f p.m2, f p.m3, f p.m4, f p.m5, f p.m6, f p.m7⟩

/-- Five binary64 values, indexed 0 to 4 (R52): coefficients b0, b1, b2, a1, a2 or history x0, x1, y0, y1, y2 (R44). -/
structure Vec5 where
  e0 : F64
  e1 : F64
  e2 : F64
  e3 : F64
  e4 : F64
deriving DecidableEq, Repr

def Vec5.get (v : Vec5) : Coeff → F64
  | .b0 => v.e0
  | .b1 => v.e1
  | .b2 => v.e2
  | .a1 => v.e3
  | .a2 => v.e4

def Vec5.set (v : Vec5) (i : Coeff) (x : F64) : Vec5 :=
  match i with
  | .b0 => { v with e0 := x }
  | .b1 => { v with e1 := x }
  | .b2 => { v with e2 := x }
  | .a1 => { v with e3 := x }
  | .a2 => { v with e4 := x }

end Sys2Proof.Machine
end

