-- ==== Sys2Proof/Machine/State.lean ====
section
/-! DEFINITION. The state of the block (10_state.md R23 to R53), its reset, and the outcomes a step can have.
`Block` holds every piece of state the spec names and the model's own oracle counters; `State` adds what the host has started
and a command in progress. -/

namespace Sys2Proof.Machine

/-- R24. -/
inductive Phase where
  | uninit
  | reset
  | identify
  | cksum
  | setup
  | calibrate
  | capture
  | run
deriving DecidableEq, Repr

/-- R25, R119: a checksum value. -/
structure Checksum where
  mode : CkMode
  acc : Byte
deriving DecidableEq, Repr

/-- R30. -/
structure RetryCounters where
  read : BitVec 32
  write : BitVec 32
  id : BitVec 32
deriving DecidableEq, Repr

/-- R29. -/
structure AdcCal where
  offset : BitVec 24
  gain : BitVec 24
  bipolar : Bool
deriving DecidableEq, Repr

/-- R35. -/
inductive Center where
  | vref
  | override (v : F64)
deriving DecidableEq, Repr

/-- R41. -/
structure ShParams where
  t0 : F64
  r0 : F64
  b : F64
deriving DecidableEq, Repr

/-- R42. -/
structure Pid where
  kp : F64
  ki : F64
  kd : F64
  outputMin : F64
  outputMax : F64
  integralMin : F64
  integralMax : F64
  target : F64
  integral : F64
  lastInput : Option F64
  lastOutput : Option F64
deriving DecidableEq, Repr

/-- R43, R177: a filter. -/
structure Iir where
  ba : Vec5
  xy : Vec5
  target : F64
deriving DecidableEq, Repr

/-- R45. -/
structure PwmLimits where
  maxIPos : F64
  maxINeg : F64
  maxV : F64
deriving DecidableEq, Repr

/-- R32 to R45: a channel record. -/
structure Channel where
  cal : Option AdcCal
  adcData : Option AdcCode
  adcTime : Option (BitVec 32)
  adcInterval : Option F64
  vrefMeas : F64
  center : Center
  dacCode : DacCode
  dacFs : F64
  pidEngaged : Bool
  iirEngaged : Bool
  mtxSel : Option Slot
  /-- S.ch[ch].tec_en and the pin S.pin.tec_en[ch] that carries it (R39, R47, log 10). -/
  tecEn : Bool
  calFailed : Bool
  sh : ShParams
  pid : Pid
  iir : Iir
  pwm : PwmLimits
deriving DecidableEq, Repr

/-- R46: a matrix slot. -/
structure MtxSlot where
  ba : Vec5
  xy : Vec5
  inSel : Source
  inConst : F64
  tgtSel : Source
  tgtConst : F64
  out : F64
deriving DecidableEq, Repr

/-- R9 CAL_MODE. -/
inductive CalMode where
  | vrefBias
  | factor
deriving DecidableEq, Repr

/-- The parameters of R9 that are arguments of the step and constant for a run (R10, log 3). -/
structure Params where
  syncIdle : PerCh Level
  adcVref : F64
  setupOdr : BitVec 5
  adcK : F64
  adcUnipolarScale : F64
  sentinel : AdcCode
  kelvinOffset : F64
  adcIdFamily : BitVec 12
  initCkMode : CkMode
  /-- `none` is UNBOUNDED (R219). -/
  retryLimit : Option Nat
  inputs : PerCh (BitVec 5 × BitVec 5)
  calMode : CalMode
  /-- CAL_START_STEP is 2 to this power. -/
  calStartLog : Nat
  calTol : F64
  calFixedTarget : F64
  /-- REG_TABLE, SETUP_CFG and POSTFILTER: a chip with another register map is another value (92_eei_decisions.md D6). -/
  tables : AdcTables
deriving DecidableEq, Repr

/-- The output pins (R16, R27, R47). -/
inductive Pin where
  | nssAdc
  | sync (ch : Ch)
  | tecEn (ch : Ch)
deriving DecidableEq, Repr

/-- The ports (R54; R215's info column). -/
inductive Port where
  | adc
  | dac (ch : Ch)
  | sampler
deriving DecidableEq, Repr

/-- The sources of a feedback sample (R16). -/
inductive FbSource where
  | dacFb
  | vref
deriving DecidableEq, Repr

/-- R81: the observable events. A failed primitive is an event of its own (95_test_vectors.md V4.3, log 14). -/
inductive Event where
  | pin (p : Pin) (l : Level)
  | spi (port : Port) (out inn : List Byte)
  | spiFail (port : Port) (out : List Byte)
  | fb (ch : Ch) (src : FbSource) (v : F64)
  | fbFail (ch : Ch) (src : FbSource)
  | result (status : BitVec 8) (rD rM : Option (BitVec 32)) (rA : Option F64)
deriving DecidableEq, Repr

/-- R219: the retry loops. -/
inductive LoopId where
  | read
  | write
  | id
  | poll
  | stab
deriving DecidableEq, Repr

/-- R215: the errors a command ends with. -/
inductive Err where
  | transport (port : Port)
  | illegalCommand (info : BitVec 32)
  | dacRange (v : BitVec 32)
  | conversionUnavailable (ch : Ch)
  | retriesExhausted (loop : LoopId)
deriving DecidableEq, Repr

/-- The block. -/
structure Block where
  cfg : Params
  phase : Phase
  ck : Checksum
  /-- S.adc.ckmode (R26). -/
  ckmode : CkMode
  adcId : Option (BitVec 16)
  rc : RetryCounters
  ch : PerCh Channel
  mtx : PerSlot MtxSlot
  /-- S.pin.nss_adc (R27). -/
  nss : Level
  /-- S.pin.sync[ch] (R47). -/
  sync : PerCh (Option Level)
  cmd : BitVec 32
  opA : F64
  opB : F64
  opD : BitVec 32
  opM : BitVec 32
  rStatus : BitVec 8
  rD : Option (BitVec 32)
  rM : Option (BitVec 32)
  rA : Option F64
  /-- The event history (R81), newest first. -/
  hist : List Event
  /-- The model's own: the answers the port agents give next; after them Config.answer (log 1). -/
  script : List Answer
  /-- The model's own: how many port primitives have consulted the oracle (log 1). -/
  ports : Nat
  /-- The model's own: how many retries of one loop this step may make while RETRY_LIMIT is UNBOUNDED (log 5). -/
  grant : Nat
  /-- The model's own: the channel whose DAC port a bare DAC_WORD goes out on (log 8). -/
  wireCh : Ch
deriving DecidableEq, Repr

/-- The REG_TABLE of this block (R9). -/
def Block.regs (b : Block) : RegTable := b.cfg.tables.regs

/-- What the host has started and the block has not yet taken (R48, log 7): nothing, the command in CMD, or one bare wire word. -/
inductive Pending where
  | idle
  | command
  | wire (raw : Raw)
deriving DecidableEq, Repr

/-- A command in progress whose retry loop used up this step's retries (log 5): the instruction, and the block as it
was when the command began. -/
structure Running where
  instr : Instr
  entry : Block
deriving DecidableEq, Repr

/-- The machine. -/
structure State extends Block where
  pending : Pending
  running : Option Running
deriving DecidableEq, Repr

/-- A reason the machine stops. It has no constructor: every error of this block ends the command with an error code and
leaves the block ready for the next one (R215, R226, R227), so nothing raises a fault. -/
inductive Fault where
deriving DecidableEq, Repr

/-- A reason the model gives no meaning. -/
inductive Refusal where
  /-- Raised by a refused arm of exec for an instruction with no meaning yet. Safe: nothing can be proved of its effect. No arm
  uses it. -/
  | notModelled (mnemonic : String)
deriving DecidableEq, Repr

/-- R42: every binary64 field 0.0, no history. -/
def Pid.reset : Pid := ⟨zeroF, zeroF, zeroF, zeroF, zeroF, zeroF, zeroF, zeroF, zeroF, none, none⟩

/-- Five zeros. -/
def Vec5.zero : Vec5 := ⟨zeroF, zeroF, zeroF, zeroF, zeroF⟩

/-- R43. -/
def Iir.reset : Iir := ⟨Vec5.zero, Vec5.zero, zeroF⟩

/-- R53: a channel record at reset. -/
def Channel.reset : Channel where
  cal := none
  adcData := none
  adcTime := none
  adcInterval := none
  vrefMeas := vrefMeasInit
  center := .vref
  dacCode := 0#18
  dacFs := dacFsNominal
  pidEngaged := false
  iirEngaged := false
  mtxSel := none
  tecEn := false
  calFailed := false
  sh := ⟨shT0Init, shR0Init, shBInit⟩
  pid := Pid.reset
  iir := Iir.reset
  pwm := ⟨zeroF, zeroF, zeroF⟩

/-- R46: a matrix slot at reset. -/
def MtxSlot.reset : MtxSlot := ⟨Vec5.zero, Vec5.zero, .const, zeroF, .const, zeroF, zeroF⟩

/-- R9: the OPEN parameters are uninterpreted, the others have the value R9 gives. -/
def Params.reset : Params where
  syncIdle := ⟨Config.syncIdle .c0, Config.syncIdle .c1⟩
  adcVref := Config.adcVref
  setupOdr := Config.setupOdr
  adcK := Machine.adcK
  adcUnipolarScale := Machine.adcUnipolarScale
  sentinel := Machine.sentinel
  kelvinOffset := Machine.kelvinOffset
  adcIdFamily := Machine.adcIdFamily
  initCkMode := .crc
  retryLimit := none
  inputs := ⟨(0b00000#5, 0b00001#5), (0b00010#5, 0b00011#5)⟩
  calMode := .vrefBias
  calStartLog := Machine.calStartLog
  calTol := Machine.calTol
  calFixedTarget := Machine.calFixedTarget
  tables := defaultTables

/-- R53, R236: the block right after power-on reset. -/
def Block.reset : Block where
  cfg := Params.reset
  phase := .uninit
  ck := ⟨.off, 0#8⟩
  ckmode := .off
  adcId := none
  rc := ⟨0#32, 0#32, 0#32⟩
  ch := ⟨Channel.reset, Channel.reset⟩
  mtx := ⟨MtxSlot.reset, MtxSlot.reset, MtxSlot.reset, MtxSlot.reset, MtxSlot.reset, MtxSlot.reset, MtxSlot.reset,
    MtxSlot.reset⟩
  nss := .high
  sync := ⟨none, none⟩
  cmd := 0#32
  opA := zeroF
  opB := zeroF
  opD := 0#32
  opM := 0#32
  rStatus := 0#8
  rD := none
  rM := none
  rA := none
  hist := []
  script := []
  ports := 0
  grant := retriesPerStep
  wireCh := .c0

/-- R53, R236, R238: the machine right after reset, with no command started. -/
def State.reset : State where
  toBlock := Block.reset
  pending := .idle
  running := none

end Sys2Proof.Machine
end

