-- ==== Sys2Proof/Machine/Ops.lean ====
section
/-! DEFINITION. The shared operations: a command as a computation over the block, state updates, port primitives and frames
(00_scope.md R16, 20_memory.md R64), the retry loop (60_exceptions.md R219), and the end of a command with a result or with an
error (R215, R226). The block has no trap and no return from one (R226, R227): ending with an error is the whole of it. -/

namespace Sys2Proof.Machine

/-- How a command's computation can break off: with an error (R18), or paused in a retry loop (R235, log 5). -/
inductive Stop where
  | raised (e : Err)
  | paused
deriving DecidableEq, Repr

/-- A computation over the block; effects made before a stop stay (R222). -/
abbrev Cmd (α : Type) := EStateM Stop Block α

/-- R18 `raise E(info)`. -/
def raise {α : Type} (e : Err) : Cmd α := fun b => .error (.raised e) b

/-- The computation pauses here until the next step (log 5). -/
def pause {α : Type} : Cmd α := fun b => .error .paused b

/-- A value read from the block. -/
def look {α : Type} (f : Block → α) : Cmd α := fun b => .ok (f b) b

/-- A state write. -/
def update (f : Block → Block) : Cmd Unit := fun b => .ok () (f b)

/-- The computation with an update made when it breaks off (R64, R156: a pin released on Transport). -/
def onStop {α : Type} (x : Cmd α) (f : Block → Block) : Cmd α := fun b =>
  match x b with
  | .ok a b' => .ok a b'
  | .error e b' => .error e (f b')

/-! Updates of one field. -/

def Block.setPhase (b : Block) (p : Phase) : Block := { b with phase := p }

def Block.setCk (b : Block) (c : Checksum) : Block := { b with ck := c }

def Block.setCkmode (b : Block) (m : CkMode) : Block := { b with ckmode := m }

def Block.setAdcId (b : Block) (v : BitVec 16) : Block := { b with adcId := some v }

def Block.setMtx (b : Block) (m : PerSlot MtxSlot) : Block := { b with mtx := m }

/-- R15: the record of one channel rewritten. -/
def Block.updCh (b : Block) (i : Ch) (f : Channel → Channel) : Block := { b with ch := b.ch.set i (f (b.ch.get i)) }

/-- One matrix slot rewritten. -/
def Block.updSlot (b : Block) (k : Slot) (f : MtxSlot → MtxSlot) : Block := { b with mtx := b.mtx.set k (f (b.mtx.get k)) }

/-- R30: counters wrap modulo 2^32. -/
def Block.bumpRead (b : Block) : Block := { b with rc := { b.rc with read := b.rc.read + 1#32 } }

def Block.bumpWrite (b : Block) : Block := { b with rc := { b.rc with write := b.rc.write + 1#32 } }

def Block.bumpId (b : Block) : Block := { b with rc := { b.rc with id := b.rc.id + 1#32 } }

/-- R81: an event added to the history. -/
def Block.record (b : Block) (e : Event) : Block := { b with hist := e :: b.hist }

/-- The level of a pin changed; S.pin.tec_en[ch] is S.ch[ch].tec_en (R47, log 9, log 10). -/
def Block.setPin (b : Block) (p : Pin) (l : Level) : Block :=
  match p with
  | .nssAdc => { b with nss := l }
  | .sync ch => { b with sync := b.sync.set ch (some l) }
  | .tecEn ch => b.updCh ch (fun c => { c with tecEn := decide (l = .high) })

/-- R16 `PinSet`: drives the pin; cannot fail. -/
def Block.drive (b : Block) (p : Pin) (l : Level) : Block := (b.setPin p l).record (.pin p l)

def pinSet (p : Pin) (l : Level) : Cmd Unit := update (fun b => b.drive p l)

/-! Port primitives. -/

/-- The agents' answer to the next port primitive: the script's first, or the free one of its number (log 1). -/
def Block.nextAnswer (b : Block) : Answer :=
  match b.script with
  | a :: _ => a
  | [] => Config.answer b.ports

/-- The block after a port primitive has consulted the oracle. -/
def Block.consumed (b : Block) : Block := { b with script := b.script.tail, ports := b.ports + 1 }

/-- R16 `SpiXfer`: as many bytes back as out, or Transport. -/
def spiXfer (port : Port) (out : List Byte) : Cmd (List Byte) := fun b =>
  if b.nextAnswer.fails then .error (.raised (.transport port)) (b.consumed.record (.spiFail port out))
  else .ok (fitBytes out.length b.nextAnswer.bytes)
    (b.consumed.record (.spi port out (fitBytes out.length b.nextAnswer.bytes)))

/-- R16 `FbSample`: one voltage sample, or Transport. -/
def fbSample (ch : Ch) (src : FbSource) : Cmd F64 := fun b =>
  if b.nextAnswer.fails then .error (.raised (.transport .sampler)) (b.consumed.record (.fbFail ch src))
  else .ok b.nextAnswer.volts (b.consumed.record (.fb ch src b.nextAnswer.volts))

/-- The transfers of an ADC frame's parts, in order (R64). -/
def adcParts : List (List Byte) → Cmd (List (List Byte))
  | [] => pure []
  | out :: rest => do
    let inn ← spiXfer .adc out
    let inns ← adcParts rest
    pure (inn :: inns)

/-- R64 `AdcFrame`: chip-select low, one transfer per part, chip-select high, also on Transport. -/
def adcFrame (parts : List (List Byte)) : Cmd (List (List Byte)) := do
  pinSet .nssAdc .low
  let inns ← onStop (adcParts parts) (fun b => b.drive .nssAdc .high)
  pinSet .nssAdc .high
  pure inns

/-! Retry loops. -/

/-- How one turn of a loop ends: done, or to be retried with the loop's own value. -/
inductive Turn (α β : Type) where
  | done (a : α)
  | again (v : β)

/-- R219: the budget check of a retry. `count` retries have been made in this entry of the loop; one more must not exceed a
finite RETRY_LIMIT. -/
def checkBudget (loop : LoopId) (count : Nat) : Cmd Unit := do
  match (← look (·.cfg.retryLimit)) with
  | some limit => if limit < count + 1 then raise (.retriesExhausted loop) else pure ()
  | none => pure ()

/-- R19, R219: a retry loop from its `count`-th retry on, with `fuel` more retries before the step pauses. -/
def retryFrom {α β : Type} (loop : LoopId) (body : β → Cmd (Turn α β)) : (fuel count : Nat) → β → Cmd α
  | 0, count, v => do
    match (← body v) with
    | .done a => pure a
    | .again _ =>
      checkBudget loop count
      pause
  | fuel + 1, count, v => do
    match (← body v) with
    | .done a => pure a
    | .again v' =>
      checkBudget loop count
      retryFrom loop body fuel (count + 1) v'

/-- The retries one entry of a loop may make in this step: RETRY_LIMIT when it is finite, else the step's grant (log 5). -/
def Block.retryFuel (b : Block) : Nat :=
  match b.cfg.retryLimit with
  | some limit => limit
  | none => b.grant

/-- R219: an entry into a retry loop; its local count starts at 0. -/
def retryLoop {α β : Type} (loop : LoopId) (body : β → Cmd (Turn α β)) (v : β) : Cmd α := do
  let fuel ← look Block.retryFuel
  retryFrom loop body fuel 0 v

/-! The end of a command. -/

/-- The result registers a command names; the others are none (R48). -/
structure Results where
  rD : Option (BitVec 32) := none
  rM : Option (BitVec 32) := none
  rA : Option F64 := none
deriving DecidableEq, Repr

/-- R48, R81: every result register written, and the result event recorded. -/
def Block.finish (b : Block) (status : BitVec 8) (r : Results) : Block :=
  { b with rStatus := status, rD := r.rD, rM := r.rM, rA := r.rA
           hist := .result status r.rD r.rM r.rA :: b.hist }

/-- R215: rStatus. -/
def Err.code : Err → BitVec 8
  | .transport _ => 1#8
  | .illegalCommand _ => 2#8
  | .dacRange _ => 3#8
  | .conversionUnavailable _ => 4#8
  | .retriesExhausted _ => 5#8

/-- R215: 0 ADC, 1 DAC 0, 2 DAC 1, 3 feedback sampler. -/
def Port.info : Port → BitVec 32
  | .adc => 0#32
  | .dac .c0 => 1#32
  | .dac .c1 => 2#32
  | .sampler => 3#32

/-- R219: the loop ids. -/
def LoopId.info : LoopId → BitVec 32
  | .read => 1#32
  | .write => 2#32
  | .id => 3#32
  | .poll => 4#32
  | .stab => 5#32

/-- The 0/1 number of a channel in a 32-bit result. -/
def chInfo : Ch → BitVec 32
  | .c0 => 0#32
  | .c1 => 1#32

/-- R215: the info written to rD. -/
def Err.info : Err → BitVec 32
  | .transport p => p.info
  | .illegalCommand w => w
  | .dacRange v => v
  | .conversionUnavailable ch => chInfo ch
  | .retriesExhausted l => l.info

/-- TAKING AN ERROR (R215, R226): the command ends with rStatus the code, rD the info, rA none; nothing else is saved. -/
def Block.takeError (b : Block) (e : Err) : Block := b.finish e.code { rD := some e.info }

/-- How a command leaves the machine: ended with its results, ended with an error, or, paused in a retry loop, kept as
running (R51, R235, log 5). -/
def settle (i : Instr) (s : State) : EStateM.Result Stop Block Results → State
  | .ok r b => { toBlock := b.finish 0#8 r, pending := s.pending, running := none }
  | .error (.raised e) b => { toBlock := b.takeError e, pending := s.pending, running := none }
  | .error .paused b => { toBlock := b, pending := s.pending, running := some ⟨i, s.toBlock⟩ }

/-- A command run from the state. -/
def runCommand (i : Instr) (body : Cmd Results) (s : State) : Host.Outcome State Fault Refusal :=
  .next (settle i s (body s.toBlock))

/-- An encoding the decoder refuses (R106, R217): IllegalCommand, with no other effect. -/
def rejectCommand (info : BitVec 32) (s : State) : Host.Outcome State Fault Refusal :=
  .next { s with toBlock := s.toBlock.takeError (.illegalCommand info), running := none }

/-- The next command paused longer: the block as it was at the command's start, with more retries granted (log 5). -/
def Running.resumed (r : Running) : Block := { r.entry with grant := r.entry.grant + retriesPerStep }

/-! Small conveniences for the meanings. -/

/-- R18 `result()`. -/
def noResult : Results := {}

/-- A result in rD. -/
def resultD (v : BitVec 32) : Results := { rD := some v }

/-- A result in rA. -/
def resultA (v : F64) : Results := { rA := some v }

/-- The channel record read. -/
def lookCh {α : Type} (i : Ch) (f : Channel → α) : Cmd α := look (fun b => f (b.ch.get i))

/-- One field of a channel record written. -/
def updateCh (i : Ch) (f : Channel → Channel) : Cmd Unit := update (fun b => b.updCh i f)

end Sys2Proof.Machine
end

