-- ==== Sys2Proof/Machine/Flags.lean ====
section
/-! DEFINITION. The block's Boolean state (10_state.md R31): it has no condition-code register; these are the engagement and
status flags of the channel records and how they read as numbers (47_channel.md R211). -/

namespace Sys2Proof.Machine

/-- R211: a flag as 0 or 1. -/
def flagWord (f : Bool) : BitVec 32 := if f then 1#32 else 0#32

/-- R207, R201: some controller drives the channel's output. -/
def Channel.engaged (c : Channel) : Bool := c.pidEngaged || c.iirEngaged || c.mtxSel.isSome

/-- R198: every controller disengaged. -/
def Channel.disengage (c : Channel) : Channel := { c with pidEngaged := false, iirEngaged := false, mtxSel := none }

end Sys2Proof.Machine
end

