-- ==== Sys2Proof/Machine/Operands.lean ====
section
/-! DEFINITION. Operand registers and the operand checks of decoding (10_state.md R48; 30_encoding.md R106; 60_exceptions.md R217):
each check runs before any state write or port event. -/

namespace Sys2Proof.Machine

/-- R106: an operand the encoding refuses ends the command with IllegalCommand(CMD) (R215, log 11). -/
def requireLegal (ok : Bool) : Cmd Unit := do
  let w ← look (·.cmd)
  if ok then pure () else raise (.illegalCommand w)

/-- A value read from REG_TABLE (R9). -/
def lookReg {α : Type} (f : RegTable → α) : Cmd α := look (fun b => f b.regs)

/-- R191, R195: opD is a 24-bit code. -/
def operandCode : Cmd AdcCode := do
  let v ← look (·.opD)
  requireLegal (decide (v.toNat ≤ 0xFFFFFF))
  pure (v.setWidth 24)

/-- R149, R150: opD has no bit above the addressed register's width. -/
def operandRegValue (a : RegAddr) : Cmd (BitVec 32) := do
  let v ← look (·.opD)
  let ok ← lookReg (·.fits a v)
  requireLegal ok
  pure v

/-- R150: opM has no bit above the addressed register's width. -/
def operandRegMask (a : RegAddr) : Cmd (BitVec 32) := do
  let v ← look (·.opM)
  let ok ← lookReg (·.fits a v)
  requireLegal ok
  pure v

end Sys2Proof.Machine
end

