-- ==== Sys2Proof/Machine/Dac.lean ====
section
/-! DEFINITION. The DAC serial word formatter (43_dac.md R153 to R159). -/

namespace Sys2Proof.Machine

/-- R154 `DacPack`. -/
def dacPack (v : DacCode) : List Byte :=
  [(v >>> 14).setWidth 8, (v >>> 6).setWidth 8, (v <<< 2).setWidth 8]

/-- R154: the unpacking of three bytes, b0 taken as an 18-bit value. -/
def dacUnpack (b0 b1 b2 : Byte) : DacCode :=
  (b0.setWidth 18 <<< 14) ||| (b1.setWidth 18 <<< 6) ||| ((b2 >>> 2).setWidth 18)

/-- R158 `ToCode`: NaN and everything not above 0 give 0, everything from DAC_MAX up gives DAC_MAX, the rest truncates. -/
def toCode (x : F64) : DacCode :=
  if F64.isNaN x then 0#18
  else if F64.le x zeroF then 0#18
  else if F64.le dacMaxF x then BitVec.ofNat 18 dacMax
  else BitVec.ofNat 18 (F64.truncNat x)

/-- R156 `DacFrame`, by the pin's idle level; the sync pin returns to idle on Transport too. -/
def dacFrame (ch : Ch) (bytes : List Byte) : Cmd Unit := do
  let idle ← look (fun b => b.cfg.syncIdle.get ch)
  match idle with
  | .high =>
    pinSet (.sync ch) .low
    let _ ← onStop (spiXfer (.dac ch) bytes) (fun b => b.drive (.sync ch) .high)
    pinSet (.sync ch) .high
  | .low =>
    pinSet (.sync ch) .high
    pinSet (.sync ch) .low
    let _ ← spiXfer (.dac ch) bytes
  update (fun b => { b with sync := b.sync.set ch (some idle) })

/-- R155, R157, R198: a code sent, then recorded as the channel's last commanded output. -/
def writeDac (ch : Ch) (v : DacCode) : Cmd Unit := do
  dacFrame ch (dacPack v)
  updateCh ch (fun c => { c with dacCode := v })

/-- R153. -/
def dacInit (ch : Ch) : Cmd Unit := do
  let idle ← look (fun b => b.cfg.syncIdle.get ch)
  pinSet (.sync ch) idle
  update (fun b => { b with sync := b.sync.set ch (some idle) })

/-- R153. -/
def bodyDacInit (ch : Ch) : Cmd Results := do
  dacInit ch
  pure noResult

/-- R155: a code above DAC_MAX is rejected before any pin event. -/
def bodyDacSetCode (ch : Ch) : Cmd Results := do
  let v ← look (·.opD)
  if dacMax < v.toNat then raise (.dacRange v)
  else do
    writeDac ch (v.setWidth 18)
    pure noResult

/-- R157: the code of a voltage at the nominal full scale. -/
def nominalCode (volts : F64) : DacCode := toCode (F64.div (F64.mul volts dacMaxF) dacFsNominal)

/-- R157. -/
def bodyDacSetVolts (ch : Ch) : Cmd Results := do
  let volts ← look (·.opA)
  let v := nominalCode volts
  writeDac ch v
  pure (resultD (v.setWidth 32))

/-- DAC_INIT (R153). -/
def execDacInit (ch : Ch) (s : State) : Host.Outcome State Fault Refusal := runCommand (.dacInit ch) (bodyDacInit ch) s

/-- DAC_SET_CODE (R155). -/
def execDacSetCode (ch : Ch) (s : State) : Host.Outcome State Fault Refusal :=
  runCommand (.dacSetCode ch) (bodyDacSetCode ch) s

/-- DAC_SET_VOLTS (R157). -/
def execDacSetVolts (ch : Ch) (s : State) : Host.Outcome State Fault Refusal :=
  runCommand (.dacSetVolts ch) (bodyDacSetVolts ch) s

end Sys2Proof.Machine
end

