-- ==== Sys2Proof/Machine/SteinhartHart.lean ====
section
/-! DEFINITION. The Steinhart-Hart converter (44_steinhart_hart.md R160 to R164). -/

namespace Sys2Proof.Machine

/-- 1.0. -/
def oneF : F64 := F64.ofNat 1

/-- R160 `ShRaw`, in the order written. -/
def shRaw (p : ShParams) (r : F64) : F64 :=
  F64.div oneF (F64.add (F64.div oneF p.t0) (F64.div (Config.ln (F64.div r p.r0)) p.b))

/-- R161 `Sh`. -/
def shTemp (p : ShParams) (r : F64) : Option F64 :=
  if F64.isFinite r && F64.lt zeroF r then
    if F64.isFinite (shRaw p r) then some (shRaw p r) else none
  else none

/-- R162: the parameter SUB names. -/
def ShParams.set (p : ShParams) (f : ShParam) (v : F64) : ShParams :=
  match f with
  | .t0 => { p with t0 := v }
  | .r0 => { p with r0 := v }
  | .b => { p with b := v }

/-- R161. -/
def bodyShGetTemperature (ch : Ch) : Cmd Results := do
  let p ← lookCh ch (·.sh)
  let r ← look (·.opA)
  pure { rA := shTemp p r }

/-- R162. -/
def bodyShSetParam (ch : Ch) (f : ShParam) : Cmd Results := do
  let v ← look (·.opA)
  updateCh ch (fun c => { c with sh := c.sh.set f v })
  pure noResult

/-- SH_GET_TEMPERATURE (R161). -/
def execShGetTemperature (ch : Ch) (s : State) : Host.Outcome State Fault Refusal :=
  runCommand (.shGetTemperature ch) (bodyShGetTemperature ch) s

/-- SH_SET_PARAM (R162). -/
def execShSetParam (ch : Ch) (f : ShParam) (s : State) : Host.Outcome State Fault Refusal :=
  runCommand (.shSetParam ch f) (bodyShSetParam ch f) s

end Sys2Proof.Machine
end

