-- ==== Sys2Proof/Machine/Convert.lean ====
section
/-! DEFINITION. The conversions of the sensor front end and the calibration datapath (47_channel.md R189 to R196). -/

namespace Sys2Proof.Machine

/-- R189 `Center`. -/
def Channel.centerVolts (c : Channel) : F64 :=
  match c.center with
  | .vref => c.vrefMeas
  | .override v => v

/-- R190 `CodeToVolts` with a calibration at hand. -/
def codeToVolts (p : Params) (cal : AdcCal) (code : AdcCode) : F64 :=
  let x0 := if cal.bipolar then F64.sub (F64.ofNat code.toNat) midScale
    else F64.mul (F64.ofNat code.toNat) p.adcUnipolarScale
  let x1 := F64.div x0 (F64.div (F64.ofNat cal.gain.toNat) gainNominal)
  let x2 := F64.sub x1 (F64.sub (F64.ofNat cal.offset.toNat) midScale)
  F64.mul (F64.mul (F64.div x2 adcDiv) p.adcVref) p.adcK

/-- R192 `DacVolts`. -/
def Channel.dacVolts (c : Channel) (code : DacCode) : F64 := F64.mul (F64.div (F64.ofNat code.toNat) dacMaxF) c.dacFs

/-- R192 `VoltsToCode`. -/
def Channel.voltsToCode (c : Channel) (v : F64) : DacCode := toCode (F64.div (F64.mul v dacMaxF) c.dacFs)

/-- R193 `VoltsToI`. -/
def Channel.voltsToI (c : Channel) (v : F64) : F64 := F64.div (F64.sub v c.centerVolts) senseGain

/-- R193 `IToVolts`. -/
def Channel.iToVolts (c : Channel) (i : F64) : F64 := F64.add c.centerVolts (F64.mul i senseGain)

/-- R193 `IToCode`: saturates to 0..DAC_MAX. -/
def Channel.iToCode (c : Channel) (i : F64) : DacCode := c.voltsToCode (c.iToVolts i)

/-- R199: the current of the code last sent. -/
def Channel.current (c : Channel) : F64 := c.voltsToI (c.dacVolts c.dacCode)

/-- R196 `ChTemp`: degrees Celsius, none without a sample or a calibration or for an absent sensor. -/
def Channel.temp (p : Params) (c : Channel) : Option F64 :=
  match c.adcData, c.cal with
  | some code, some cal => (shTemp c.sh (Config.feR (codeToVolts p cal code))).map (fun t => F64.sub t p.kelvinOffset)
  | _, _ => none

/-- R196 on the block. -/
def Block.chTemp (b : Block) (ch : Ch) : Option F64 := (b.ch.get ch).temp b.cfg

end Sys2Proof.Machine
end

