-- ==== Sys2Proof/Machine/IirBank.lean ====
section
/-! DEFINITION. The IIR biquad filters and the filter matrix (46_iir.md R177 to R188). -/

namespace Sys2Proof.Machine

/-- R177: the dot product, left to right. -/
def dot5 (x c : Vec5) : F64 :=
  F64.add (F64.add (F64.add (F64.add (F64.mul x.e0 c.e0) (F64.mul x.e1 c.e1)) (F64.mul x.e2 c.e2)) (F64.mul x.e3 c.e3))
    (F64.mul x.e4 c.e4)

/-- R177, R178: the history shifted right by one with target - x0 in front. -/
def Iir.shifted (f : Iir) (x0 : F64) : Vec5 := ⟨F64.sub f.target x0, f.xy.e0, f.xy.e1, f.xy.e2, f.xy.e3⟩

/-- R177: the output of a step. -/
def Iir.output (f : Iir) (x0 : F64) : F64 := dot5 (f.shifted x0) f.ba

/-- R177 `IirStep`: the filter after the step. -/
def Iir.step (f : Iir) (x0 : F64) : Iir := { f with xy := { f.shifted x0 with e2 := f.output x0 } }

/-- R183 `Src`: a selector's value given the outputs before the tick. -/
def Block.source (b : Block) (snap : PerSlot F64) (sel : Source) (c : F64) : Option F64 :=
  match sel with
  | .const => some c
  | .temp ch => b.chTemp ch
  | .filter k => some (snap.get k)

/-- R185: one slot's tick; it holds when a source is absent. -/
def Block.tickSlot (b : Block) (snap : PerSlot F64) (m : MtxSlot) : MtxSlot :=
  match b.source snap m.inSel m.inConst, b.source snap m.tgtSel m.tgtConst with
  | some x, some t =>
    let f : Iir := ⟨m.ba, m.xy, t⟩
    { m with xy := (f.step x).xy, out := f.output x }
  | _, _ => m

/-- R184, R185: all slots ticked against the snapshot of the outputs before the tick. -/
def Block.ticked (b : Block) : PerSlot MtxSlot := b.mtx.map (b.tickSlot (b.mtx.map (·.out)))

/-- R185. -/
def mtxTick : Cmd Unit := update (fun b => b.setMtx b.ticked)

/-- R177 on a channel's filter: the step made and its output. -/
def iirStep (ch : Ch) (x0 : F64) : Cmd F64 := do
  let f ← lookCh ch (·.iir)
  updateCh ch (fun c => { c with iir := f.step x0 })
  pure (f.output x0)

/-- R180. -/
def bodyIirTick (ch : Ch) : Cmd Results := do
  let x0 ← look (·.opA)
  let y ← iirStep ch x0
  pure (resultA y)

/-- R181. -/
def bodyIirSetCoeff (ch : Ch) (i : Coeff) : Cmd Results := do
  let v ← look (·.opA)
  updateCh ch (fun c => { c with iir := { c.iir with ba := c.iir.ba.set i v } })
  pure noResult

/-- R182. -/
def bodyIirSetTarget (ch : Ch) : Cmd Results := do
  let v ← look (·.opA)
  updateCh ch (fun c => { c with iir := { c.iir with target := v } })
  pure noResult

/-- R185. -/
def bodyMtxTick : Cmd Results := do
  mtxTick
  pure noResult

/-- R186. -/
def bodyMtxSetCoeff (k : Slot) (i : Coeff) : Cmd Results := do
  let v ← look (·.opA)
  update (fun b => b.updSlot k (fun m => { m with ba := m.ba.set i v }))
  pure noResult

/-- R187: the constant is written for every selector. -/
def MtxSlot.setSource (m : MtxSlot) (role : Role) (sel : Source) (v : F64) : MtxSlot :=
  match role with
  | .input => { m with inSel := sel, inConst := v }
  | .target => { m with tgtSel := sel, tgtConst := v }

/-- R187. -/
def bodyMtxSetSource (k : Slot) (role : Role) (sel : Source) : Cmd Results := do
  let v ← look (·.opA)
  update (fun b => b.updSlot k (fun m => m.setSource role sel v))
  pure noResult

/-- IIR_TICK (R180). -/
def execIirTick (ch : Ch) (s : State) : Host.Outcome State Fault Refusal := runCommand (.iirTick ch) (bodyIirTick ch) s

/-- IIR_SET_COEFF (R181). -/
def execIirSetCoeff (ch : Ch) (i : Coeff) (s : State) : Host.Outcome State Fault Refusal :=
  runCommand (.iirSetCoeff ch i) (bodyIirSetCoeff ch i) s

/-- IIR_SET_TARGET (R182). -/
def execIirSetTarget (ch : Ch) (s : State) : Host.Outcome State Fault Refusal :=
  runCommand (.iirSetTarget ch) (bodyIirSetTarget ch) s

/-- MTX_TICK (R185). -/
def execMtxTick (s : State) : Host.Outcome State Fault Refusal := runCommand .mtxTick bodyMtxTick s

/-- MTX_SET_COEFF (R186). -/
def execMtxSetCoeff (k : Slot) (i : Coeff) (s : State) : Host.Outcome State Fault Refusal :=
  runCommand (.mtxSetCoeff k i) (bodyMtxSetCoeff k i) s

/-- MTX_SET_SOURCE (R187). -/
def execMtxSetSource (k : Slot) (role : Role) (sel : Source) (s : State) : Host.Outcome State Fault Refusal :=
  runCommand (.mtxSetSource k role sel) (bodyMtxSetSource k role sel) s

end Sys2Proof.Machine
end

