-- ==== Sys2Proof/Machine/PidControl.lean ====
section
/-! DEFINITION. The PID controller (45_pid.md R165 to R176). -/

namespace Sys2Proof.Machine

/-- R167: the previous output exists and lies strictly inside the output bounds as they are now. -/
def Pid.gateOpen (p : Pid) : Bool :=
  match p.lastOutput with
  | some lo => F64.lt p.outputMin lo && F64.lt lo p.outputMax
  | none => false

/-- R166 step 1. -/
def Pid.error (p : Pid) (input : F64) : F64 := F64.sub p.target input

/-- R166 step 3, R167: the accumulator after the gate, before the clamp. -/
def Pid.accumulated (p : Pid) (input dt : F64) : F64 :=
  if p.gateOpen then F64.add p.integral (F64.mul (p.error input) dt) else p.integral

/-- R166 step 3: the accumulator after the step. -/
def Pid.nextIntegral (p : Pid) (input dt : F64) : F64 := F64.clamp (p.accumulated input dt) p.integralMin p.integralMax

/-- R168: the derivative of the input, zero on the first update. -/
def Pid.derivative (p : Pid) (input dt : F64) : F64 :=
  match p.lastInput with
  | none => zeroF
  | some li => F64.div (F64.mul p.kd (F64.sub input li)) dt

/-- R169: the clamped sum, left to right. -/
def Pid.output (p : Pid) (input dt : F64) : F64 :=
  F64.clamp
    (F64.add (F64.add (F64.mul p.kp (p.error input)) (F64.mul (p.nextIntegral input dt) p.ki)) (p.derivative input dt))
    p.outputMin p.outputMax

/-- R166 `PidStep`: the controller after the step; the step's output is its last output. -/
def Pid.step (p : Pid) (input dt : F64) : Pid :=
  { p with integral := p.nextIntegral input dt, lastInput := some input, lastOutput := some (p.output input dt) }

/-- R172: the accumulator rescaled by old ki / new ki, or reset when the new ki is ±0. -/
def Pid.setKi (p : Pid) (ki : F64) : Pid :=
  { p with integral := if F64.eq ki zeroF then zeroF else F64.mul p.integral (F64.div p.ki ki), ki := ki }

/-- R173: the parameter SUB names. -/
def Pid.setParam (p : Pid) (f : PidParam) (v : F64) : Pid :=
  match f with
  | .target => { p with target := v }
  | .kp => { p with kp := v }
  | .kd => { p with kd := v }
  | .outputMin => { p with outputMin := v }
  | .outputMax => { p with outputMax := v }
  | .integralMin => { p with integralMin := v }
  | .integralMax => { p with integralMax := v }

/-- R166 on a channel's controller: the step made and its output. -/
def pidStep (ch : Ch) (input dt : F64) : Cmd F64 := do
  let p ← lookCh ch (·.pid)
  updateCh ch (fun c => { c with pid := p.step input dt })
  pure (p.output input dt)

/-- R166. -/
def bodyPidUpdate (ch : Ch) : Cmd Results := do
  let input ← look (·.opA)
  let dt ← look (·.opB)
  let out ← pidStep ch input dt
  pure (resultA out)

/-- R172. -/
def bodyPidUpdateKi (ch : Ch) : Cmd Results := do
  let ki ← look (·.opA)
  updateCh ch (fun c => { c with pid := c.pid.setKi ki })
  pure noResult

/-- R173. -/
def bodyPidSetParam (ch : Ch) (f : PidParam) : Cmd Results := do
  let v ← look (·.opA)
  updateCh ch (fun c => { c with pid := c.pid.setParam f v })
  pure noResult

/-- PID_UPDATE (R166). -/
def execPidUpdate (ch : Ch) (s : State) : Host.Outcome State Fault Refusal :=
  runCommand (.pidUpdate ch) (bodyPidUpdate ch) s

/-- PID_UPDATE_KI (R172). -/
def execPidUpdateKi (ch : Ch) (s : State) : Host.Outcome State Fault Refusal :=
  runCommand (.pidUpdateKi ch) (bodyPidUpdateKi ch) s

/-- PID_SET_PARAM (R173). -/
def execPidSetParam (ch : Ch) (f : PidParam) (s : State) : Host.Outcome State Fault Refusal :=
  runCommand (.pidSetParam ch f) (bodyPidSetParam ch f) s

end Sys2Proof.Machine
end

