-- ==== Sys2Proof/Machine/ChannelOps.lean ====
section
/-! DEFINITION. The channel commands and the DAC calibration search (47_channel.md R191 to R209). -/

namespace Sys2Proof.Machine

/-- R191: ConversionUnavailable without a calibration (R220). -/
def convertCode (ch : Ch) (code : AdcCode) : Cmd F64 := do
  let cal ← lookCh ch (·.cal)
  let p ← look (·.cfg)
  match cal with
  | none => raise (.conversionUnavailable ch)
  | some c => pure (codeToVolts p c code)

/-- R191. -/
def bodyChConvertData (ch : Ch) : Cmd Results := do
  let code ← operandCode
  let v ← convertCode ch code
  pure (resultA v)

/-- R195: the interval since the last sample, from the wrapped difference of the timestamps. -/
def sampleInterval (last : Option (BitVec 32)) (now : BitVec 32) : Option F64 :=
  last.map (fun t => F64.div (F64.ofNat (now - t).toNat) msPerSecond)

/-- R195. -/
def Channel.sampled (c : Channel) (sentinel code : AdcCode) (now : BitVec 32) : Channel :=
  { c with adcInterval := sampleInterval c.adcTime now, adcTime := some now
           adcData := if code = sentinel then none else some code }

/-- R195 on the block. -/
def sample (ch : Ch) (code : AdcCode) (now : BitVec 32) : Cmd Unit := do
  let sent ← look (·.cfg.sentinel)
  updateCh ch (fun c => c.sampled sent code now)

/-- R195. -/
def bodyChSample (ch : Ch) : Cmd Results := do
  let code ← operandCode
  let now ← look (·.opM)
  sample ch code now
  pure noResult

/-- R197. -/
def bodyChGetTemperature (ch : Ch) : Cmd Results := do
  let t ← look (·.chTemp ch)
  pure { rA := t }

/-- R198: a manual setting: every controller disengaged, the code sent. -/
def setManual (ch : Ch) (code : Channel → DacCode) : Cmd Results := do
  updateCh ch Channel.disengage
  let v ← lookCh ch code
  writeDac ch v
  pure (resultD (v.setWidth 32))

/-- R198. -/
def bodyChSetI (ch : Ch) : Cmd Results := do
  let amps ← look (·.opA)
  setManual ch (·.iToCode amps)

/-- R199. -/
def bodyChGetI (ch : Ch) : Cmd Results := do
  let i ← lookCh ch Channel.current
  pure (resultA i)

/-- R200. -/
def bodyChSetDacVolts (ch : Ch) : Cmd Results := do
  let volts ← look (·.opA)
  setManual ch (·.voltsToCode volts)

/-- R201: the new policy. -/
def newCenter (sel : CenterSel) (v : F64) : Center :=
  match sel with
  | .vref => .vref
  | .override => .override v

/-- R201: with no controller engaged the code is recomputed to keep the physical current. -/
def bodyChSetCenter (ch : Ch) (sel : CenterSel) : Cmd Results := do
  let v ← look (·.opA)
  let c ← lookCh ch id
  updateCh ch (fun c => { c with center := newCenter sel v })
  if c.engaged then pure noResult
  else do
    let code ← lookCh ch (fun c' => c'.iToCode c.current)
    writeDac ch code
    pure noResult

/-- R202. -/
def bodyChSetPidEngaged (ch : Ch) (f : Bool) : Cmd Results := do
  updateCh ch (fun c => { c with pidEngaged := f })
  pure noResult

/-- R203. -/
def bodyChSetIirEngaged (ch : Ch) (f : Bool) : Cmd Results := do
  updateCh ch (fun c => { c with iirEngaged := f })
  pure noResult

/-- R204. -/
def bodyChSetMtxSel (ch : Ch) (sel : Option Slot) : Cmd Results := do
  updateCh ch (fun c => { c with mtxSel := sel })
  pure noResult

/-- R205: the pin carries the flag (R47). -/
def setTecEn (ch : Ch) (f : Bool) : Cmd Unit := pinSet (.tecEn ch) (Level.ofBool f)

/-- R205. -/
def bodyChSetTecEn (ch : Ch) (f : Bool) : Cmd Results := do
  setTecEn ch f
  pure noResult

/-- R206: the limit SUB names. -/
def PwmLimits.set (p : PwmLimits) (l : Limit) (v : F64) : PwmLimits :=
  match l with
  | .maxIPos => { p with maxIPos := v }
  | .maxINeg => { p with maxINeg := v }
  | .maxV => { p with maxV := v }

/-- R206. -/
def bodyChSetPwmLimit (ch : Ch) (l : Limit) : Cmd Results := do
  let v ← look (·.opA)
  updateCh ch (fun c => { c with pwm := c.pwm.set l v })
  pure noResult

/-! The calibration search (R208, R209). -/

/-- R209: one turn of the STAB loop, carrying the previous sample. -/
def stableTurn (ch : Ch) (src : FbSource) (a : F64) : Cmd (Turn F64 F64) := do
  let b ← fbSample ch src
  let tol ← look (·.cfg.calTol)
  if F64.lt (F64.abs (F64.sub b a)) tol then pure (.done b) else pure (.again b)

/-- R209 `Stable`. -/
def stable (ch : Ch) (src : FbSource) : Cmd F64 := do
  let a ← fbSample ch src
  retryLoop .stab (stableTurn ch src) a

/-- R208: the target voltage of the search. -/
def calTarget (ch : Ch) : Cmd F64 := do
  let mode ← look (·.cfg.calMode)
  match mode with
  | .factor => look (·.cfg.calFixedTarget)
  | .vrefBias => stable ch .vref

/-- R208: one pass from v upward in steps; ends past DAC_MAX or at the first feedback above the target. The fuel
dacMax / step + 1 is never used up before v passes DAC_MAX. -/
def sweep (ch : Ch) (target : F64) (step : Nat) : (fuel v : Nat) → Option DacCode → Cmd (Option DacCode)
  | 0, _, best => pure best
  | fuel + 1, v, best =>
    if dacMax < v then pure best
    else do
      writeDac ch (BitVec.ofNat 18 v)
      let fb ← stable ch .dacFb
      if F64.le zeroF (F64.sub target fb) then sweep ch target step fuel (v + step) (some (BitVec.ofNat 18 v))
      else pure best

/-- R208: the start of the next pass. -/
def passStart : Option DacCode → Nat
  | some b => b.toNat
  | none => 0

/-- R208: the passes of step sizes 2^k, 2^(k-1), ..., 1. -/
def passes (ch : Ch) (target : F64) : (k : Nat) → Option DacCode → Cmd (Option DacCode)
  | 0, best => sweep ch target 1 (dacMax + 1) (passStart best) best
  | k + 1, best => do
    let best' ← sweep ch target (2 ^ (k + 1)) (dacMax / 2 ^ (k + 1) + 1) (passStart best) best
    passes ch target k best'

/-- R208: what the search's outcome does to the channel. -/
def Channel.calibrated (c : Channel) (mode : CalMode) (target : F64) (best : Option DacCode) : Channel :=
  match mode, best with
  | _, none => { c with calFailed := true }
  | .factor, some b =>
    if b = 0#18 then { c with calFailed := true }
    else { c with dacFs := F64.div (F64.mul target dacMaxF) (F64.ofNat b.toNat) }
  | .vrefBias, some b => { c with vrefMeas := F64.mul (F64.div (F64.ofNat b.toNat) dacMaxF) c.dacFs }

/-- R208. -/
def calibrateDac (ch : Ch) : Cmd (Option DacCode) := do
  updateCh ch (fun c => { c with calFailed := false })
  let target ← calTarget ch
  let k ← look (·.cfg.calStartLog)
  let best ← passes ch target k none
  writeDac ch 0#18
  let mode ← look (·.cfg.calMode)
  updateCh ch (fun c => c.calibrated mode target best)
  pure best

/-- R208. -/
def bodyChCalibrateDac (ch : Ch) : Cmd Results := do
  let best ← calibrateDac ch
  pure { rD := best.map (·.setWidth 32) }

/-- CH_CONVERT_DATA (R191). -/
def execChConvertData (ch : Ch) (s : State) : Host.Outcome State Fault Refusal :=
  runCommand (.chConvertData ch) (bodyChConvertData ch) s

/-- CH_SAMPLE (R195). -/
def execChSample (ch : Ch) (s : State) : Host.Outcome State Fault Refusal := runCommand (.chSample ch) (bodyChSample ch) s

/-- CH_GET_TEMPERATURE (R197). -/
def execChGetTemperature (ch : Ch) (s : State) : Host.Outcome State Fault Refusal :=
  runCommand (.chGetTemperature ch) (bodyChGetTemperature ch) s

/-- CH_SET_I (R198). -/
def execChSetI (ch : Ch) (s : State) : Host.Outcome State Fault Refusal := runCommand (.chSetI ch) (bodyChSetI ch) s

/-- CH_GET_I (R199). -/
def execChGetI (ch : Ch) (s : State) : Host.Outcome State Fault Refusal := runCommand (.chGetI ch) (bodyChGetI ch) s

/-- CH_SET_DAC_VOLTS (R200). -/
def execChSetDacVolts (ch : Ch) (s : State) : Host.Outcome State Fault Refusal :=
  runCommand (.chSetDacVolts ch) (bodyChSetDacVolts ch) s

/-- CH_SET_CENTER (R201). -/
def execChSetCenter (ch : Ch) (sel : CenterSel) (s : State) : Host.Outcome State Fault Refusal :=
  runCommand (.chSetCenter ch sel) (bodyChSetCenter ch sel) s

/-- CH_SET_PID_ENGAGED (R202). -/
def execChSetPidEngaged (ch : Ch) (f : Bool) (s : State) : Host.Outcome State Fault Refusal :=
  runCommand (.chSetPidEngaged ch f) (bodyChSetPidEngaged ch f) s

/-- CH_SET_IIR_ENGAGED (R203). -/
def execChSetIirEngaged (ch : Ch) (f : Bool) (s : State) : Host.Outcome State Fault Refusal :=
  runCommand (.chSetIirEngaged ch f) (bodyChSetIirEngaged ch f) s

/-- CH_SET_MTX_SEL (R204). -/
def execChSetMtxSel (ch : Ch) (sel : Option Slot) (s : State) : Host.Outcome State Fault Refusal :=
  runCommand (.chSetMtxSel ch sel) (bodyChSetMtxSel ch sel) s

/-- CH_SET_TEC_EN (R205). -/
def execChSetTecEn (ch : Ch) (f : Bool) (s : State) : Host.Outcome State Fault Refusal :=
  runCommand (.chSetTecEn ch f) (bodyChSetTecEn ch f) s

/-- CH_SET_PWM_LIMIT (R206). -/
def execChSetPwmLimit (ch : Ch) (l : Limit) (s : State) : Host.Outcome State Fault Refusal :=
  runCommand (.chSetPwmLimit ch l) (bodyChSetPwmLimit ch l) s

/-- CH_CALIBRATE_DAC (R208). -/
def execChCalibrateDac (ch : Ch) (s : State) : Host.Outcome State Fault Refusal :=
  runCommand (.chCalibrateDac ch) (bodyChCalibrateDac ch) s

end Sys2Proof.Machine
end

