-- ==== Sys2Proof/Machine/FieldRead.lean ====
section
/-! DEFINITION. CH_READ_FIELD (47_channel.md R211, R212): reading changes no state and issues no port event. -/

namespace Sys2Proof.Machine

/-- R211: phase numbers. -/
def phaseWord : Phase → BitVec 32
  | .uninit => 0#32
  | .reset => 1#32
  | .identify => 2#32
  | .cksum => 3#32
  | .setup => 4#32
  | .calibrate => 5#32
  | .capture => 6#32
  | .run => 7#32

/-- R211: 0 LOW, 1 HIGH. -/
def levelWord : Level → BitVec 32
  | .low => 0#32
  | .high => 1#32

/-- R211: 0 VREF, 1 OVERRIDE. -/
def centerWord : Center → BitVec 32
  | .vref => 0#32
  | .override _ => 1#32

/-- R211: the override voltage, none when VREF. -/
def centerOverride : Center → Option F64
  | .vref => none
  | .override v => some v

/-- A field reported in rA. -/
def fieldA (v : Option F64) : Option Results := some { rA := v }

/-- A field reported in rD. -/
def fieldD (v : Option (BitVec 32)) : Option Results := some { rD := v }

/-- R211: the channel fields. -/
def channelField (b : Block) (ch : Ch) (id : Nat) : Option Results :=
  let c := b.ch.get ch
  match id with
  | 0x00 => fieldD (c.adcData.map (·.setWidth 32))
  | 0x01 => fieldD c.adcTime
  | 0x02 => fieldA c.adcInterval
  | 0x03 => fieldA (some c.vrefMeas)
  | 0x04 => fieldD (some (centerWord c.center))
  | 0x05 => fieldA (centerOverride c.center)
  | 0x06 => fieldD (some (c.dacCode.setWidth 32))
  | 0x07 => fieldA (some c.dacFs)
  | 0x08 => fieldD (some (flagWord c.pidEngaged))
  | 0x09 => fieldD (some (flagWord c.iirEngaged))
  | 0x0A => fieldD (c.mtxSel.map (fun k => (slotCode k).setWidth 32))
  | 0x0B => fieldD (some (flagWord c.tecEn))
  | 0x0C => fieldD (some (flagWord c.calFailed))
  | 0x0D => fieldD (c.cal.map (fun k => k.offset.setWidth 32))
  | 0x0E => fieldD (c.cal.map (fun k => k.gain.setWidth 32))
  | 0x0F => fieldD (c.cal.map (fun k => flagWord k.bipolar))
  | 0x10 => fieldA (some c.sh.t0)
  | 0x11 => fieldA (some c.sh.r0)
  | 0x12 => fieldA (some c.sh.b)
  | 0x13 => fieldD ((b.sync.get ch).map levelWord)
  | 0x20 => fieldA (some c.pid.kp)
  | 0x21 => fieldA (some c.pid.ki)
  | 0x22 => fieldA (some c.pid.kd)
  | 0x23 => fieldA (some c.pid.outputMin)
  | 0x24 => fieldA (some c.pid.outputMax)
  | 0x25 => fieldA (some c.pid.integralMin)
  | 0x26 => fieldA (some c.pid.integralMax)
  | 0x27 => fieldA (some c.pid.target)
  | 0x28 => fieldA (some c.pid.integral)
  | 0x29 => fieldA c.pid.lastInput
  | 0x2A => fieldA c.pid.lastOutput
  | 0x30 => fieldA (some c.iir.ba.e0)
  | 0x31 => fieldA (some c.iir.ba.e1)
  | 0x32 => fieldA (some c.iir.ba.e2)
  | 0x33 => fieldA (some c.iir.ba.e3)
  | 0x34 => fieldA (some c.iir.ba.e4)
  | 0x35 => fieldA (some c.iir.xy.e0)
  | 0x36 => fieldA (some c.iir.xy.e1)
  | 0x37 => fieldA (some c.iir.xy.e2)
  | 0x38 => fieldA (some c.iir.xy.e3)
  | 0x39 => fieldA (some c.iir.xy.e4)
  | 0x3A => fieldA (some c.iir.target)
  | 0x40 => fieldA (some c.pwm.maxIPos)
  | 0x41 => fieldA (some c.pwm.maxINeg)
  | 0x42 => fieldA (some c.pwm.maxV)
  | 0x50 => fieldA (b.chTemp ch)
  | 0x51 => fieldA (some c.current)
  | 0x52 => fieldA (some (c.dacVolts c.dacCode))
  | _ => none

/-- R211: the matrix fields. -/
def matrixField (m : MtxSlot) (id : Nat) : Option Results :=
  match id with
  | 0x60 => fieldA (some m.ba.e0)
  | 0x61 => fieldA (some m.ba.e1)
  | 0x62 => fieldA (some m.ba.e2)
  | 0x63 => fieldA (some m.ba.e3)
  | 0x64 => fieldA (some m.ba.e4)
  | 0x65 => fieldA (some m.xy.e0)
  | 0x66 => fieldA (some m.xy.e1)
  | 0x67 => fieldA (some m.xy.e2)
  | 0x68 => fieldA (some m.xy.e3)
  | 0x69 => fieldA (some m.xy.e4)
  | 0x6A => fieldD (some ((sourceCode m.inSel).setWidth 32))
  | 0x6B => fieldA (some m.inConst)
  | 0x6C => fieldD (some ((sourceCode m.tgtSel).setWidth 32))
  | 0x6D => fieldA (some m.tgtConst)
  | 0x6E => fieldA (some m.out)
  | _ => none

/-- R211: the block fields. -/
def blockField (b : Block) (id : Nat) : Option Results :=
  match id with
  | 0xF0 => fieldD (some (phaseWord b.phase))
  | 0xF1 => fieldD (some ((ckModeCode b.ckmode).setWidth 32))
  | 0xF2 => fieldD (b.adcId.map (·.setWidth 32))
  | 0xF3 => fieldD (some b.rc.read)
  | 0xF4 => fieldD (some b.rc.write)
  | 0xF5 => fieldD (some b.rc.id)
  | 0xF6 => fieldD (some ((ckModeCode b.ck.mode).setWidth 32))
  | 0xF7 => fieldD (some (b.ck.acc.setWidth 32))
  | 0xF8 => fieldD (some (levelWord b.nss))
  | _ => none

/-- R211 `Field(IDX, id)`; none where the id is not in the table or IDX does not fit it. -/
def Block.field (b : Block) (idx : BitVec 3) (id : BitVec 8) : Option Results :=
  match fieldClass id with
  | some .channel =>
    match chOf idx with
    | some ch => channelField b ch id.toNat
    | none => none
  | some .matrix => matrixField (b.mtx.get (slotOf idx)) id.toNat
  | some .block => if idx = 0#3 then blockField b id.toNat else none
  | none => none

/-- R211; an id or IDX outside the table is IllegalCommand. -/
def bodyChReadField (idx : BitVec 3) (id : BitVec 8) : Cmd Results := do
  let w ← look (·.cmd)
  match (← look (·.field idx id)) with
  | some r => pure r
  | none => raise (.illegalCommand w)

/-- CH_READ_FIELD (R211). -/
def execChReadField (idx : BitVec 3) (id : BitVec 8) (s : State) : Host.Outcome State Fault Refusal :=
  runCommand (.chReadField idx id) (bodyChReadField idx id) s

end Sys2Proof.Machine
end

