-- ==== Sys2Proof/Machine/Checksum.lean ====
section
/-! DEFINITION. The checksum engine (41_checksum.md R119 to R126). -/

namespace Sys2Proof.Machine

/-- R119: zero initial state. -/
def ckNew (mode : CkMode) : Checksum := ⟨mode, 0#8⟩

/-- R121: one bit, most significant first; polynomial 0x07. -/
def crcBit (inbit : Bool) (acc : Byte) : Byte :=
  (acc <<< 1) ^^^ (if acc.getLsbD 7 != inbit then 0x07#8 else 0x00#8)

/-- R121: the bits i, i-1, ..., 0 of b, in that order. -/
def crcBits (b : Byte) : Nat → Byte → Byte
  | 0, acc => acc
  | i + 1, acc => crcBits b i (crcBit (b.getLsbD i) acc)

/-- R121. -/
def crcByte (acc b : Byte) : Byte := crcBits b 8 acc

/-- R119 to R121. -/
def ckFeedByte (c : Checksum) (b : Byte) : Checksum :=
  match c.mode with
  | .off => c
  | .xor => { c with acc := c.acc ^^^ b }
  | .crc => { c with acc := crcByte c.acc b }

/-- R119: bytes fed in order. -/
def ckFeedBytes (c : Checksum) (bytes : List Byte) : Checksum := bytes.foldl ckFeedByte c

/-- R122: none in mode Off. -/
def ckValue (c : Checksum) : Option Byte :=
  match c.mode with
  | .off => none
  | .xor => some c.acc
  | .crc => some c.acc

/-- R124. -/
def bodyCkInit (mode : CkMode) : Cmd Results := do
  update (fun b => b.setCk (ckNew mode))
  pure noResult

/-- R125. -/
def bodyCkFeed (byte : Byte) : Cmd Results := do
  update (fun b => b.setCk (ckFeedByte b.ck byte))
  pure noResult

/-- R126. -/
def bodyCkResult : Cmd Results := do
  let c ← look (·.ck)
  pure { rD := (ckValue c).map (·.setWidth 32) }

/-- CK_INIT (R124). -/
def execCkInit (mode : CkMode) (s : State) : Host.Outcome State Fault Refusal := runCommand (.ckInit mode) (bodyCkInit mode) s

/-- CK_FEED (R125). -/
def execCkFeed (byte : Byte) (s : State) : Host.Outcome State Fault Refusal := runCommand (.ckFeed byte) (bodyCkFeed byte) s

/-- CK_RESULT (R126). -/
def execCkResult (s : State) : Host.Outcome State Fault Refusal := runCommand .ckResult bodyCkResult s

end Sys2Proof.Machine
end

