-- ==== Sys2Proof/Machine/AdcProtocol.lean ====
section
/-! DEFINITION. The ADC register protocol engine (42_adc_protocol.md R127 to R152): the read, write and update primitives
with retry, and the commands over them. -/

namespace Sys2Proof.Machine

/-- R128 `ReadMode()`. -/
def Block.readMode (b : Block) : CkMode := b.ckmode

/-- R128 `WriteMode()`: CRC whenever a checksum is on. -/
def Block.writeMode (b : Block) : CkMode :=
  match b.ckmode with
  | .off => .off
  | .xor => .crc
  | .crc => .crc

/-- The checksum slot of a frame: present only when there is a checksum byte (R84, R122). -/
def ckSlot : Option Byte → List (List Byte)
  | some x => [[x]]
  | none => []

/-- R84, R129: the parts of a read frame of an n-byte register; slot 3 carries the read checksum of the command byte alone (D9). -/
def readParts (mode : CkMode) (a : RegAddr) (n : Nat) : List (List Byte) :=
  [[readCmdByte a], List.replicate n 0x00#8] ++ ckSlot (ckValue (ckFeedBytes (ckNew mode) [readCmdByte a]))

/-- R129: the payload of a read frame's answer. -/
def readPayload (inns : List (List Byte)) : List Byte := inns.getD 1 []

/-- R129: the received checksum byte, when the frame has one. -/
def readCheck (mode : CkMode) (a : RegAddr) (inns : List (List Byte)) : Option Byte :=
  (ckValue (ckFeedBytes (ckNew mode) [readCmdByte a])).map (fun _ => (inns.getD 2 []).headD 0x00#8)

/-- R129 `ok`: the computed checksum over command byte and payload equals the received one; both none in mode Off. -/
def readOk (mode : CkMode) (a : RegAddr) (inns : List (List Byte)) : Bool :=
  ckValue (ckFeedBytes (ckFeedBytes (ckNew mode) [readCmdByte a]) (readPayload inns)) == readCheck mode a inns

/-- R129 `ReadOnce`. -/
def readOnce (a : RegAddr) : Cmd (List Byte × Bool) := do
  let mode ← look Block.readMode
  let n ← lookReg (·.width a)
  let inns ← adcFrame (readParts mode a n)
  pure (readPayload inns, readOk mode a inns)

/-- One turn of the READ loop (R130). -/
def readTurn (a : RegAddr) (_ : Unit) : Cmd (Turn (List Byte) Unit) := do
  let (p, ok) ← readOnce a
  if ok then pure (.done p)
  else
    update Block.bumpRead
    pure (.again ())

/-- R130 `ReadReg`. -/
def readReg (a : RegAddr) : Cmd (List Byte) := retryLoop .read (readTurn a) ()

/-- R131: the parts of a write frame. -/
def writeParts (mode : CkMode) (a : RegAddr) (p : List Byte) : List (List Byte) :=
  [[writeCmdByte a], p] ++ ckSlot (ckValue (ckFeedBytes (ckNew mode) (writeCmdByte a :: p)))

/-- R131 `WriteOnce`; the bytes read back on MISO are ignored. -/
def writeOnce (a : RegAddr) (p : List Byte) : Cmd Unit := do
  let mode ← look Block.writeMode
  let _ ← adcFrame (writeParts mode a p)
  pure ()

/-- One turn of the WRITE loop (R132): the write frame and its readback. -/
def writeTurn (a : RegAddr) (p : List Byte) (_ : Unit) : Cmd (Turn Unit Unit) := do
  writeOnce a p
  let rb ← readReg a
  if rb = p then pure (.done ())
  else
    update Block.bumpWrite
    pure (.again ())

/-- R132 `WriteReg`. -/
def writeReg (a : RegAddr) (p : List Byte) : Cmd Unit := retryLoop .write (writeTurn a p) ()

/-- R133 `UpdateReg`: the modification acts on the big-endian value (R127). -/
def updateReg (a : RegAddr) (f : BitVec 32 → BitVec 32) : Cmd (BitVec 32) := do
  let p ← readReg a
  let n ← lookReg (·.width a)
  let v := bytesBe n (f (be p))
  writeReg a v
  pure (be v)

/-- The value of a register read (R58, R130). -/
def readValue (a : RegAddr) : Cmd (BitVec 32) := do
  let p ← readReg a
  pure (be p)

/-- STATUS read (R87). -/
def readStatus : Cmd (BitVec 32) := do
  let a ← lookReg (·.status)
  readValue a

/-- R85, R135: the reset frame, then the local mode is Off. -/
def resetAdc : Cmd Unit := do
  let _ ← adcFrame [List.replicate 8 0xFF#8]
  update (fun b => b.setCkmode .off)

/-- R28, R136: the ID is of the family (R91). -/
def Params.ofFamily (c : Params) (id : BitVec 16) : Bool := c.tables.regs.family id == c.adcIdFamily.toNat

/-- One turn of the ID loop (R136). -/
def identifyTurn (_ : Unit) : Cmd (Turn (BitVec 16) Unit) := do
  let a ← lookReg (·.id)
  let v ← readValue a
  let id : BitVec 16 := v.setWidth 16
  let ok ← look (·.cfg.ofFamily id)
  if ok then
    update (fun b => b.setAdcId id)
    pure (.done id)
  else
    update Block.bumpId
    pure (.again ())

/-- R136. -/
def identify : Cmd (BitVec 16) := retryLoop .id identifyTurn ()

/-- R137: IFMODE written and verified in the old mode, then the local mode switched. -/
def setChecksumMode (m : CkMode) : Cmd Unit := do
  let t ← look Block.regs
  let _ ← updateReg t.ifMode (t.setCrcEn m)
  update (fun b => b.setCkmode m)

/-- R138. -/
def setupChannel (i : Ch) (inPos inNeg : BitVec 5) : Cmd Unit := do
  let odr ← look (·.cfg.setupOdr)
  let T ← look (·.cfg.tables)
  let _ ← updateReg (regIndexed T.regs.setupCon i) T.setSetupCon
  let _ ← updateReg (regIndexed T.regs.filtCon i) (T.setFiltCon odr)
  let _ ← updateReg (regIndexed T.regs.ch i) (T.setChReg i inPos inNeg)
  pure ()

/-- One turn of the POLL loop (R139). -/
def pollTurn (_ : Unit) : Cmd (Turn Unit Unit) := do
  let s ← readStatus
  let ready ← lookReg (·.statusReady s)
  if ready then pure (.done ()) else pure (.again ())

/-- R139: the system offset calibration, its ready wait, and continuous conversion again. -/
def calibrateOffset : Cmd Unit := do
  let t ← look Block.regs
  let _ ← updateReg t.adcMode (t.setMode t.systemOffset)
  retryLoop .poll pollTurn ()
  let _ ← updateReg t.adcMode (t.setMode t.continuous)
  pure ()

/-- R140: the three registers as a calibration record. -/
def readCal (i : Ch) : Cmd AdcCal := do
  let t ← look Block.regs
  let o ← readValue (regIndexed t.offset i)
  let g ← readValue (regIndexed t.gain i)
  let su ← readValue (regIndexed t.setupCon i)
  pure ⟨o.setWidth 24, g.setWidth 24, t.isBipolar su⟩

/-- R29: captured once. -/
def Channel.captureCal (cal : AdcCal) (c : Channel) : Channel :=
  match c.cal with
  | none => { c with cal := some cal }
  | some _ => c

/-- R140. -/
def getCalibration (i : Ch) : Cmd AdcCal := do
  let cal ← readCal i
  updateCh i (Channel.captureCal cal)
  pure cal

/-- R140: gain with the bipolar flag in bit 24. -/
def calGainWord (cal : AdcCal) : BitVec 32 :=
  cal.gain.setWidth 32 ||| ((if cal.bipolar then 1#32 else 0#32) <<< 24)

/-- R147: the six bodies in order, with the phase stepped before each. -/
def adcInit : Cmd (BitVec 16) := do
  update (·.setPhase .reset)
  resetAdc
  update (·.setPhase .identify)
  let id ← identify
  update (·.setPhase .cksum)
  let m ← look (·.cfg.initCkMode)
  setChecksumMode m
  update (·.setPhase .setup)
  let inputs ← look (·.cfg.inputs)
  setupChannel .c0 inputs.c0.1 inputs.c0.2
  setupChannel .c1 inputs.c1.1 inputs.c1.2
  update (·.setPhase .calibrate)
  calibrateOffset
  update (·.setPhase .capture)
  let _ ← getCalibration .c0
  let _ ← getCalibration .c1
  update (·.setPhase .run)
  pure id

/-- R135. -/
def bodyAdcReset : Cmd Results := do
  resetAdc
  pure noResult

/-- R148. -/
def bodyAdcReadReg (a : RegAddr) : Cmd Results := do
  let ok ← lookReg (·.known a)
  requireLegal ok
  let v ← readValue a
  pure (resultD v)

/-- R149. -/
def bodyAdcWriteReg (a : RegAddr) : Cmd Results := do
  let ok ← lookReg (·.writable a)
  requireLegal ok
  let v ← operandRegValue a
  let n ← lookReg (·.width a)
  writeReg a (bytesBe n v)
  pure noResult

/-- R150. -/
def bodyAdcUpdateReg (a : RegAddr) : Cmd Results := do
  let ok ← lookReg (·.writable a)
  requireLegal ok
  let v ← operandRegValue a
  let m ← operandRegMask a
  let new ← updateReg a (mergeBits m v)
  pure (resultD new)

/-- R136. -/
def bodyAdcIdentify : Cmd Results := do
  let id ← identify
  pure (resultD (id.setWidth 32))

/-- R137. -/
def bodyAdcSetChecksumMode (m : CkMode) : Cmd Results := do
  setChecksumMode m
  pure noResult

/-- R138. -/
def bodyAdcSetupChannel (i : Ch) (inPos inNeg : BitVec 5) : Cmd Results := do
  let ok ← lookReg (fun t => t.selectorLegal inPos && t.selectorLegal inNeg)
  requireLegal ok
  setupChannel i inPos inNeg
  pure noResult

/-- R139. -/
def bodyAdcCalibrateOffset : Cmd Results := do
  calibrateOffset
  pure noResult

/-- R140. -/
def bodyAdcGetCalibration (i : Ch) : Cmd Results := do
  let cal ← getCalibration i
  pure { rD := some (cal.offset.setWidth 32), rM := some (calGainWord cal) }

/-- R141. -/
def bodyAdcGetPostfilter (i : Ch) : Cmd Results := do
  let T ← look (·.cfg.tables)
  let f ← readValue (regIndexed T.regs.filtCon i)
  pure { rD := (T.postfilterOf f).map (·.setWidth 32) }

/-- R106, R142: an enabled code is a PostFilter value. -/
def AdcTables.postfilterOperandLegal (T : AdcTables) : Option (BitVec 3) → Bool
  | some c => T.postfilterLegal c
  | none => true

/-- R142. -/
def bodyAdcSetPostfilter (i : Ch) (code : Option (BitVec 3)) : Cmd Results := do
  let T ← look (·.cfg.tables)
  requireLegal (T.postfilterOperandLegal code)
  let _ ← updateReg (regIndexed T.regs.filtCon i) (T.regs.setPostfilter code)
  pure noResult

/-- R143: the error of a rate. -/
def rateError (target rate : F64) : F64 := F64.abs (F64.sub rate target)

/-- R143: a later entry wins only with a strictly smaller error. -/
def closerFilter (target : F64) (best e : BitVec 3 × F64) : BitVec 3 × F64 :=
  if F64.lt (rateError target e.2) (rateError target best.2) then e else best

/-- R143: the code of the nearest rate of a POSTFILTER table; none for NaN. -/
def closestPostfilter (table : List (BitVec 3 × F64)) (target : F64) : Option (BitVec 3) :=
  if F64.isNaN target then none
  else
    match table with
    | [] => none
    | first :: rest => some (rest.foldl (closerFilter target) first).1

/-- R143. -/
def bodyAdcPostfilterClosest : Cmd Results := do
  let rate ← look (·.opA)
  let table ← look (·.cfg.tables.postfilters)
  pure { rD := (closestPostfilter table rate).map (·.setWidth 32) }

/-- R144: the channel whose data is ready, if any. -/
def RegTable.readyChannel (t : RegTable) (s : BitVec 32) : Option Nat :=
  if t.statusReady s then some (t.statusChannel s) else none

/-- R144. -/
def bodyAdcDataReady : Cmd Results := do
  let s ← readStatus
  let c ← lookReg (·.readyChannel s)
  pure { rD := c.map (BitVec.ofNat 32) }

/-- R145. -/
def bodyAdcReadData : Cmd Results := do
  let a ← lookReg (·.data)
  let v ← readValue a
  pure (resultD v)

/-- R147. -/
def bodyAdcInit : Cmd Results := do
  let id ← adcInit
  pure (resultD (id.setWidth 32))

/-- ADC_RESET (R135). -/
def execAdcReset (s : State) : Host.Outcome State Fault Refusal := runCommand .adcReset bodyAdcReset s

/-- ADC_READ_REG (R148). -/
def execAdcReadReg (a : RegAddr) (s : State) : Host.Outcome State Fault Refusal :=
  runCommand (.adcReadReg a) (bodyAdcReadReg a) s

/-- ADC_WRITE_REG (R149). -/
def execAdcWriteReg (a : RegAddr) (s : State) : Host.Outcome State Fault Refusal :=
  runCommand (.adcWriteReg a) (bodyAdcWriteReg a) s

/-- ADC_UPDATE_REG (R150). -/
def execAdcUpdateReg (a : RegAddr) (s : State) : Host.Outcome State Fault Refusal :=
  runCommand (.adcUpdateReg a) (bodyAdcUpdateReg a) s

/-- ADC_IDENTIFY (R136). -/
def execAdcIdentify (s : State) : Host.Outcome State Fault Refusal := runCommand .adcIdentify bodyAdcIdentify s

/-- ADC_SET_CHECKSUM_MODE (R137). -/
def execAdcSetChecksumMode (m : CkMode) (s : State) : Host.Outcome State Fault Refusal :=
  runCommand (.adcSetChecksumMode m) (bodyAdcSetChecksumMode m) s

/-- ADC_SETUP_CHANNEL (R138). -/
def execAdcSetupChannel (i : Ch) (inPos inNeg : BitVec 5) (s : State) : Host.Outcome State Fault Refusal :=
  runCommand (.adcSetupChannel i inPos inNeg) (bodyAdcSetupChannel i inPos inNeg) s

/-- ADC_CALIBRATE_OFFSET (R139). -/
def execAdcCalibrateOffset (s : State) : Host.Outcome State Fault Refusal :=
  runCommand .adcCalibrateOffset bodyAdcCalibrateOffset s

/-- ADC_GET_CALIBRATION (R140). -/
def execAdcGetCalibration (i : Ch) (s : State) : Host.Outcome State Fault Refusal :=
  runCommand (.adcGetCalibration i) (bodyAdcGetCalibration i) s

/-- ADC_GET_POSTFILTER (R141). -/
def execAdcGetPostfilter (i : Ch) (s : State) : Host.Outcome State Fault Refusal :=
  runCommand (.adcGetPostfilter i) (bodyAdcGetPostfilter i) s

/-- ADC_SET_POSTFILTER (R142). -/
def execAdcSetPostfilter (i : Ch) (code : Option (BitVec 3)) (s : State) : Host.Outcome State Fault Refusal :=
  runCommand (.adcSetPostfilter i code) (bodyAdcSetPostfilter i code) s

/-- ADC_POSTFILTER_CLOSEST (R143). -/
def execAdcPostfilterClosest (s : State) : Host.Outcome State Fault Refusal :=
  runCommand .adcPostfilterClosest bodyAdcPostfilterClosest s

/-- ADC_DATA_READY (R144). -/
def execAdcDataReady (s : State) : Host.Outcome State Fault Refusal := runCommand .adcDataReady bodyAdcDataReady s

/-- ADC_READ_DATA (R145). -/
def execAdcReadData (s : State) : Host.Outcome State Fault Refusal := runCommand .adcReadData bodyAdcReadData s

/-- ADC_INIT (R147). -/
def execAdcInit (s : State) : Host.Outcome State Fault Refusal := runCommand .adcInit bodyAdcInit s

end Sys2Proof.Machine
end

