-- ==== Sys2Proof/Machine/Orchestrator.lean ====
section
/-! DEFINITION. The orchestrator: the control step, POLL_ADC and BLOCK_INIT (47_channel.md R207, R213, R214). -/

namespace Sys2Proof.Machine

/-- R207: which controller drives the output and what it says; none when the PID has no interval above 0 yet. -/
def controlOutput (ch : Ch) (t : F64) : Cmd (Option F64) := do
  let c ← lookCh ch id
  match c.mtxSel with
  | some k => do
    let out ← look (fun b => (b.mtx.get k).out)
    pure (some out)
  | none =>
    if c.iirEngaged then do
      let out ← iirStep ch t
      pure (some out)
    else
      match c.adcInterval with
      | some dt =>
        if F64.lt zeroF dt then do
          let out ← pidStep ch t dt
          pure (some out)
        else pure none
      | none => pure none

/-- R207: the control output written to the DAC and the driver powered. -/
def driveOutput (ch : Ch) (out : F64) : Cmd Unit := do
  let v ← lookCh ch (fun c => c.iToCode out)
  writeDac ch v
  setTecEn ch true

/-- R207 `ControlStep`. -/
def controlStep (ch : Ch) : Cmd Unit := do
  mtxTick
  let e ← lookCh ch Channel.engaged
  if e then do
    match (← look (·.chTemp ch)) with
    | none => setTecEn ch false
    | some t => do
      match (← controlOutput ch t) with
      | none => pure ()
      | some out => driveOutput ch out
  else pure ()

/-- R146: the control channel an ADC channel's result belongs to. -/
def controlChannel (c : Nat) : Option Ch :=
  match c with
  | 0 => some .c0
  | 1 => some .c1
  | _ => none

/-- R213. -/
def bodyPollAdc : Cmd Results := do
  let now ← look (·.opM)
  let t ← look Block.regs
  let s ← readStatus
  if t.statusReady s then do
    let code ← readValue t.data
    match controlChannel (t.statusChannel s) with
    | none => pure noResult
    | some ch => do
      sample ch (code.setWidth 24) now
      controlStep ch
      pure (resultD (chInfo ch))
  else pure noResult

/-- R214. -/
def bodyBlockInit : Cmd Results := do
  setTecEn .c0 false
  setTecEn .c1 false
  let _ ← adcInit
  dacInit .c0
  dacInit .c1
  let _ ← calibrateDac .c0
  let _ ← calibrateDac .c1
  let id ← look (·.adcId)
  pure { rD := id.map (·.setWidth 32) }

/-- POLL_ADC (R213). -/
def execPollAdc (s : State) : Host.Outcome State Fault Refusal := runCommand .pollAdc bodyPollAdc s

/-- BLOCK_INIT (R214). -/
def execBlockInit (s : State) : Host.Outcome State Fault Refusal := runCommand .blockInit bodyBlockInit s

end Sys2Proof.Machine
end

