-- ==== Sys2Proof/Machine/Wire.lean ====
section
/-! DEFINITION. The four wire rows of the opcode table, each run as the one frame it opens (R82, R85, R100; R129, R131, R135,
R154, R156). The spec gives the frames; that a bare frame can be run by itself, and where its operands come from, is the
model's (log 8). -/

namespace Sys2Proof.Machine

/-- R57: a wire command naming a register it may not reach ends with IllegalCommand(addr). -/
def requireReg (ok : Bool) (a : RegAddr) : Cmd Unit :=
  if ok then pure () else raise (.illegalCommand (a.setWidth 32))

/-- R129: one read frame; rD is the payload's value when its checksum is good, none when it is not. -/
def bodySpiReadCmd (a : RegAddr) : Cmd Results := do
  let ok ← lookReg (·.known a)
  requireReg ok a
  let (p, good) ← readOnce a
  pure { rD := if good then some (be p) else none }

/-- R131: one write frame, the payload from opD. -/
def bodySpiWriteCmd (a : RegAddr) : Cmd Results := do
  let ok ← lookReg (·.writable a)
  requireReg ok a
  let v ← look (·.opD)
  let fit ← lookReg (·.fits a v)
  requireReg fit a
  let n ← lookReg (·.width a)
  writeOnce a (bytesBe n v)
  pure noResult

/-- R85, R135: the reset frame, after which the local checksum mode is Off. -/
def bodySpiResetFrame : Cmd Results := do
  resetAdc
  pure noResult

/-- R154, R156: one DAC frame, on the port of channel `wireCh`. -/
def bodyDacWord (code : DacCode) : Cmd Results := do
  let ch ← look (·.wireCh)
  writeDac ch code
  pure noResult

/-- SPI_READ_CMD (R129). -/
def execSpiReadCmd (a : RegAddr) (s : State) : Host.Outcome State Fault Refusal :=
  runCommand (.spiReadCmd a) (bodySpiReadCmd a) s

/-- SPI_WRITE_CMD (R131). -/
def execSpiWriteCmd (a : RegAddr) (s : State) : Host.Outcome State Fault Refusal :=
  runCommand (.spiWriteCmd a) (bodySpiWriteCmd a) s

/-- SPI_RESET_FRAME (R135). -/
def execSpiResetFrame (s : State) : Host.Outcome State Fault Refusal := runCommand .spiResetFrame bodySpiResetFrame s

/-- DAC_WORD (R154). -/
def execDacWord (code : DacCode) (s : State) : Host.Outcome State Fault Refusal :=
  runCommand (.dacWord code) (bodyDacWord code) s

end Sys2Proof.Machine
end

