-- ==== Sys2Proof/Machine/Dispatch.lean ====
section
/-! DEFINITION. The meaning of every instruction: one arm per constructor, each a direct call of its meaning. -/

namespace Sys2Proof.Machine

def exec (i : Instr) (s : State) : Host.Outcome State Fault Refusal :=
  match i with
  | .ckInit mode => Sys2Proof.Machine.execCkInit mode s
  | .ckFeed byte => Sys2Proof.Machine.execCkFeed byte s
  | .ckResult => Sys2Proof.Machine.execCkResult s
  | .adcReset => Sys2Proof.Machine.execAdcReset s
  | .adcReadReg addr => Sys2Proof.Machine.execAdcReadReg addr s
  | .adcWriteReg addr => Sys2Proof.Machine.execAdcWriteReg addr s
  | .adcUpdateReg addr => Sys2Proof.Machine.execAdcUpdateReg addr s
  | .adcIdentify => Sys2Proof.Machine.execAdcIdentify s
  | .adcSetChecksumMode mode => Sys2Proof.Machine.execAdcSetChecksumMode mode s
  | .adcSetupChannel ch inPos inNeg => Sys2Proof.Machine.execAdcSetupChannel ch inPos inNeg s
  | .adcCalibrateOffset => Sys2Proof.Machine.execAdcCalibrateOffset s
  | .adcGetCalibration ch => Sys2Proof.Machine.execAdcGetCalibration ch s
  | .adcGetPostfilter ch => Sys2Proof.Machine.execAdcGetPostfilter ch s
  | .adcSetPostfilter ch code => Sys2Proof.Machine.execAdcSetPostfilter ch code s
  | .adcPostfilterClosest => Sys2Proof.Machine.execAdcPostfilterClosest s
  | .adcDataReady => Sys2Proof.Machine.execAdcDataReady s
  | .adcReadData => Sys2Proof.Machine.execAdcReadData s
  | .adcInit => Sys2Proof.Machine.execAdcInit s
  | .dacInit ch => Sys2Proof.Machine.execDacInit ch s
  | .dacSetCode ch => Sys2Proof.Machine.execDacSetCode ch s
  | .dacSetVolts ch => Sys2Proof.Machine.execDacSetVolts ch s
  | .shGetTemperature ch => Sys2Proof.Machine.execShGetTemperature ch s
  | .shSetParam ch param => Sys2Proof.Machine.execShSetParam ch param s
  | .pidUpdate ch => Sys2Proof.Machine.execPidUpdate ch s
  | .pidUpdateKi ch => Sys2Proof.Machine.execPidUpdateKi ch s
  | .pidSetParam ch param => Sys2Proof.Machine.execPidSetParam ch param s
  | .iirTick ch => Sys2Proof.Machine.execIirTick ch s
  | .iirSetCoeff ch coeff => Sys2Proof.Machine.execIirSetCoeff ch coeff s
  | .iirSetTarget ch => Sys2Proof.Machine.execIirSetTarget ch s
  | .mtxTick => Sys2Proof.Machine.execMtxTick s
  | .mtxSetCoeff k coeff => Sys2Proof.Machine.execMtxSetCoeff k coeff s
  | .mtxSetSource k role sel => Sys2Proof.Machine.execMtxSetSource k role sel s
  | .chConvertData ch => Sys2Proof.Machine.execChConvertData ch s
  | .chSample ch => Sys2Proof.Machine.execChSample ch s
  | .chGetTemperature ch => Sys2Proof.Machine.execChGetTemperature ch s
  | .chSetI ch => Sys2Proof.Machine.execChSetI ch s
  | .chGetI ch => Sys2Proof.Machine.execChGetI ch s
  | .chSetDacVolts ch => Sys2Proof.Machine.execChSetDacVolts ch s
  | .chSetCenter ch sel => Sys2Proof.Machine.execChSetCenter ch sel s
  | .chSetPidEngaged ch flag => Sys2Proof.Machine.execChSetPidEngaged ch flag s
  | .chSetIirEngaged ch flag => Sys2Proof.Machine.execChSetIirEngaged ch flag s
  | .chSetMtxSel ch sel => Sys2Proof.Machine.execChSetMtxSel ch sel s
  | .chSetTecEn ch flag => Sys2Proof.Machine.execChSetTecEn ch flag s
  | .chSetPwmLimit ch limit => Sys2Proof.Machine.execChSetPwmLimit ch limit s
  | .chCalibrateDac ch => Sys2Proof.Machine.execChCalibrateDac ch s
  | .chReadField idx field => Sys2Proof.Machine.execChReadField idx field s
  | .pollAdc => Sys2Proof.Machine.execPollAdc s
  | .blockInit => Sys2Proof.Machine.execBlockInit s
  | .spiReadCmd addr => Sys2Proof.Machine.execSpiReadCmd addr s
  | .spiWriteCmd addr => Sys2Proof.Machine.execSpiWriteCmd addr s
  | .spiResetFrame => Sys2Proof.Machine.execSpiResetFrame s
  | .dacWord code => Sys2Proof.Machine.execDacWord code s

end Sys2Proof.Machine
end

