-- ==== Sys2Proof/Machine/Fetch.lean ====
section
/-! DEFINITION. Taking the host's next command (10_state.md R48, R51; 70_reset_and_hazards.md R238): the block fetches nothing from
a memory; the host writes CMD and the operand registers and starts the command (log 7). -/

namespace Sys2Proof.Machine

/-- The word the block takes next: the one in CMD, or a bare wire word; none when the host has started nothing. -/
def State.fetch (s : State) : Option Raw :=
  match s.pending with
  | .idle => none
  | .command => some (.cmd32 s.cmd)
  | .wire raw => some raw

/-- What has been started is taken. -/
def State.taken (s : State) : State := { s with pending := .idle }

/-- R106, R215: what a refused encoding reports: the CMD word, for a wire word its bits (log 8). -/
def Raw.info : Raw → BitVec 32
  | .cmd32 w => w
  | .spi8 b => b.setWidth 32
  | .reset64 w => w.setWidth 32
  | .dac24 w => w.setWidth 32

/-- R107, R217: the word decoded against the block's tables and run, or refused with IllegalCommand. -/
def runRaw (raw : Raw) (s : State) : Host.Outcome State Fault Refusal :=
  match decode s.cfg.tables raw with
  | .ok i => exec i s
  | .error _ => rejectCommand (Raw.info raw) s

/-- A command in progress gone on with: run again from its start with more retries granted (log 5). -/
def resume (r : Running) (s : State) : Host.Outcome State Fault Refusal :=
  exec r.instr { toBlock := r.resumed, pending := s.pending, running := none }

/-- One step: go on with the command in progress, else take what the host has started, else wait (R238). -/
def advance (s : State) : Host.Outcome State Fault Refusal :=
  match s.running with
  | some r => resume r s
  | none =>
    match s.fetch with
    | some raw => runRaw raw s.taken
    | none => .next s

/-- A word started so that the very next step takes it: a command word through CMD, a wire word by itself. Only withFetchWord uses
it. DESIGN CHOICE, log 22: 00_scope.md R8 has the host wait for a command's result, so the spec says nothing of a word started while
a command is in progress (70_reset_and_hazards.md R249: there is no abort); here that command is dropped where it stands, and a word
not yet taken is replaced. -/
def State.start (s : State) (raw : Raw) : State :=
  match raw with
  | .cmd32 w => { s with cmd := w, pending := .command, running := none }
  | .spi8 b => { s with pending := .wire (.spi8 b), running := none }
  | .reset64 w => { s with pending := .wire (.reset64 w), running := none }
  | .dac24 w => { s with pending := .wire (.dac24 w), running := none }

/-- R48: the host writes CMD and the operand registers and starts the command. While something started has not
ended, pending or in progress, it does nothing: the host waits for the result (00_scope.md R8; 70_reset_and_hazards.md R249). DESIGN
CHOICE, log 22: R8 says that the host waits, not what the block would do with a command issued too early. -/
def State.hostIssue (s : State) (cmd : BitVec 32) (opA opB : F64) (opD opM : BitVec 32) : State :=
  match s.pending, s.running with
  | .idle, none => { s with cmd := cmd, opA := opA, opB := opB, opD := opD, opM := opM, pending := .command }
  | _, _ => s

end Sys2Proof.Machine
end

