-- ==== Sys2Proof/Machine/Step.lean ====
section
/-! DEFINITION. One step of the machine. -/

namespace Sys2Proof.Machine

/-- One step. -/
def step (s : State) : Host.Outcome State Fault Refusal := advance s

/-- The instruction whose bits are w, stored where step takes its next one: CMD and the host's start for a command word, the
bare wire word for a wire row (log 7). -/
def State.withFetchWord (s : State) (nbits w : Nat) : State := s.start (rawOf nbits w)

end Sys2Proof.Machine
end

