-- ==== Sys2Proof/Safety.lean ====
section
/-! DEFINITION. The terms the claims use: what is said of the port agents' answers (frames and conversations), what a completed
and a failed command leave, what must hold between any two steps, and the calibration search as a function of the sampler. -/

namespace Sys2Proof.Safety

open Machine

/-! How a command ends. -/

/-- R48, R81: the state after a command that ended well on block b: rStatus 0, each result register as named, the result event
recorded, nothing in progress. -/
def completed (s : State) (b : Block) (r : Results) : State :=
  { toBlock := { b with rStatus := 0#8, rD := r.rD, rM := r.rM, rA := r.rA
                        hist := .result 0#8 r.rD r.rM r.rA :: b.hist }
    pending := s.pending
    running := none }

/-- R215, R226: the state after a command that ended on block b with an error: rStatus the code, rD the info, rM and rA none. -/
def failed (s : State) (b : Block) (code : BitVec 8) (info : BitVec 32) : State :=
  { toBlock := { b with rStatus := code, rD := some info, rM := none, rA := none
                        hist := .result code (some info) none none :: b.hist }
    pending := s.pending
    running := none }

/-- Log 5: the state after a step that stopped inside a retry loop on block b. -/
def inProgress (s : State) (b : Block) (i : Instr) : State :=
  { toBlock := b, pending := s.pending, running := some ⟨i, s.toBlock⟩ }

/-- R219, log 5: one entry of a retry loop may make n retries in this step. -/
def mayRetry (b : Block) (n : Nat) : Prop :=
  match b.cfg.retryLimit with
  | some limit => n ≤ limit
  | none => n ≤ b.grant

/-! Register fields. -/

/-- The value of a field of a register. -/
def fieldOf (f : BitField) (v : BitVec 32) : Nat := (v.extractLsb' f.lo (f.hi + 1 - f.lo)).toNat

/-- `v` with the bits of `mask` replaced by those of `new` (R134). -/
def withBits (mask new v : BitVec 32) : BitVec 32 := (v &&& ~~~mask) ||| (new &&& mask)

/-- `v` with the fields of a list set one after the other, and every other bit as it was (R127, R134). -/
def withFields : List (BitField × Nat) → BitVec 32 → BitVec 32
  | [], v => v
  | (f, n) :: l, v =>
    withFields l (withBits ((BitVec.allOnes (f.hi + 1 - f.lo)).setWidth 32 <<< f.lo) (BitVec.ofNat 32 n <<< f.lo) v)

/-- Bit n lies in none of these fields. -/
def outside (n : Nat) (fs : List BitField) : Prop := ∀ f ∈ fs, n < f.lo ∨ f.hi < n

/-- R28, R91: an ID of the block's family. -/
def isFamily (p : Params) (id : BitVec 16) : Bool := fieldOf p.tables.regs.idFamily (id.setWidth 32) == p.adcIdFamily.toNat

/-- R87: a STATUS payload that says ready. -/
def isReady (t : RegTable) (st : List Byte) : Bool := fieldOf t.ready (be st) == t.readyCode

/-- R55: a channel's offset to an indexed register's base address, and its setup number. -/
def chNumber : Ch → RegAddr
  | .c0 => 0#6
  | .c1 => 1#6

/-! Conversations with the ADC. -/

/-- R121: one byte fed bit by bit, bit 7 first. -/
def crcSerial (acc b : Byte) : Byte :=
  [7, 6, 5, 4, 3, 2, 1, 0].foldl
    (fun acc i => (acc <<< 1) ^^^ (if acc.getLsbD 7 != b.getLsbD i then 0x07#8 else 0x00#8)) acc

/-- R119, R121: the CRC of a byte string, from a zero accumulator. -/
def crcOf (bytes : List Byte) : Byte := bytes.foldl crcSerial 0#8

/-- The exclusive or of a byte string (R120). -/
def xorOf (bytes : List Byte) : Byte := bytes.foldl (fun acc b => acc ^^^ b) 0#8

/-- R84, R122: the checksum slot over some bytes: none in mode Off. -/
def checkSlot (m : CkMode) (bytes : List Byte) : List (List Byte) :=
  match m with
  | .off => []
  | .xor => [[xorOf bytes]]
  | .crc => [[crcOf bytes]]

/-- R128: the mode of a write: CRC whenever a checksum is on. -/
def writeModeOf (m : CkMode) : CkMode := if m = .off then .off else .crc

/-- A frame on the ADC port as a claim names it: the reset frame; a read of register a in mode m that answers payload p with the
right checksum; one that answers p with check byte c, a wrong one; a write of p. -/
inductive Frame where
  | reset
  | read (m : CkMode) (a : RegAddr) (p : List Byte)
  | corrupt (m : CkMode) (a : RegAddr) (p : List Byte) (c : Byte)
  | write (m : CkMode) (a : RegAddr) (p : List Byte)
deriving DecidableEq, Repr

/-- R83: a read's command byte. -/
def readByte (a : RegAddr) : Byte := 0x40#8 ||| a.setWidth 8

/-- R83: a write's command byte. -/
def writeByte (a : RegAddr) : Byte := a.setWidth 8

/-- R84: what the block sends, slot by slot; a read sends as many zeros as the payload has bytes. -/
def Frame.sent : Frame → List (List Byte)
  | .reset => [List.replicate 8 0xFF#8]
  | .read m a p => [[readByte a], List.replicate p.length 0x00#8] ++ checkSlot m [readByte a]
  | .corrupt m a p _ => [[readByte a], List.replicate p.length 0x00#8] ++ checkSlot m [readByte a]
  | .write m a p => [[writeByte a], p] ++ checkSlot (writeModeOf m) (writeByte a :: p)

/-- R84, R129: what the ADC answers, slot by slot; none where any bytes do. -/
def Frame.replies : Frame → List (Option (List Byte))
  | .reset => [none]
  | .read m a p => [none, some p] ++ (checkSlot m (readByte a :: p)).map some
  | .corrupt _ _ p c => [none, some p, some [c]]
  | .write m a p => [none, none] ++ (checkSlot (writeModeOf m) (writeByte a :: p)).map (fun _ => none)

/-- The payload has the register's width (R56); a corrupt read's check byte is a wrong one. -/
def Frame.sound (t : RegTable) : Frame → Bool
  | .reset => true
  | .read _ a p => p.length == t.width a
  | .corrupt m a p c => p.length == t.width a && m != .off && checkSlot m (readByte a :: p) != [[c]]
  | .write _ a p => p.length == t.width a

/-- The answers are successes and say what is asked of them. -/
def answered : List (Option (List Byte)) → List Answer → Bool
  | [], [] => true
  | r :: rs, a :: as => !a.fails && (r.all (· == a.bytes)) && answered rs as
  | [], _ :: _ => false
  | _ :: _, [] => false

/-- The events of one frame's transfers, newest first. -/
def transferEvents : List (List Byte) → List Answer → List Event
  | out :: outs, a :: as => transferEvents outs as ++ [.spi .adc out (fitBytes out.length a.bytes)]
  | _, _ => []

/-- R64: the events of a frame, newest first: chip-select low, the transfers, chip-select high. -/
def Frame.events (f : Frame) (as : List Answer) : List Event :=
  .pin .nssAdc .high :: (transferEvents f.sent as ++ [.pin .nssAdc .low])

/-- The events of a run of frames, newest first. -/
def framesEvents : List Frame → List Answer → List Event
  | [], _ => []
  | f :: fs, as => framesEvents fs (as.drop f.sent.length) ++ f.events (as.take f.sent.length)

/-- The port agents' next answers are `as`, and they are those of the frames `fs`; `rest` comes after them. Where a frame asks for
no particular bytes, any bytes do, and its event holds them cut or padded to the length sent (log 1). -/
def converses (b : Block) (fs : List Frame) (as rest : List Answer) : Prop :=
  fs.all (Frame.sound b.cfg.tables.regs) = true ∧ answered (fs.flatMap Frame.replies) as = true ∧ b.script = as ++ rest

/-- The block after a run of frames, before any other effect: events recorded, answers used up, nothing else. -/
def afterFrames (b : Block) (fs : List Frame) (as rest : List Answer) : Block :=
  { b with script := rest, ports := b.ports + as.length, hist := framesEvents fs as ++ b.hist }

/-- R133: the frames of a read-modify-write that finds p and turns its value v into f v. -/
def updateFrames (m : CkMode) (a : RegAddr) (p : List Byte) (f : BitVec 32 → BitVec 32) : List Frame :=
  [.read m a p, .write m a (bytesBe p.length (f (be p))), .read m a (bytesBe p.length (f (be p)))]

/-- R138, R97: the frames of ADC_SETUP_CHANNEL; p1, p2, p3 are what SETUPCON, FILTCON and CH hold before. -/
def setupFrames (T : AdcTables) (m : CkMode) (i : Ch) (odr inPos inNeg : BitVec 5) (p1 p2 p3 : List Byte) : List Frame :=
  let t := T.regs
  let c := T.setup
  updateFrames m (t.setupCon + chNumber i) p1
    (withFields [(t.biUnipolar, c.biUnipolar), (t.refBufPos, c.refBufPos), (t.refBufNeg, c.refBufNeg), (t.ainBufPos, c.ainBufPos),
      (t.ainBufNeg, c.ainBufNeg), (t.refSel, c.refSel)]) ++
  updateFrames m (t.filtCon + chNumber i) p2
    (withFields [(t.enhFiltEn, c.enhFiltEn), (t.enhFilt, c.enhFilt), (t.order, c.order), (t.odr, odr.toNat)]) ++
  updateFrames m (t.ch + chNumber i) p3
    (withFields [(t.chEn, c.chEn), (t.setupSel, (chNumber i).toNat), (t.ainPos, inPos.toNat), (t.ainNeg, inNeg.toNat)])

/-- R139: the frames of ADC_CALIBRATE_OFFSET; p and q are what ADCMODE holds before each update, `waits` the STATUS payloads
read while not ready, `st` the first that is ready. -/
def calibrateFrames (t : RegTable) (m : CkMode) (p q : List Byte) (waits : List (List Byte)) (st : List Byte) : List Frame :=
  updateFrames m t.adcMode p (withFields [(t.mode, t.systemOffset)]) ++
  (waits.map (Frame.read m t.status) ++ [.read m t.status st]) ++
  updateFrames m t.adcMode q (withFields [(t.mode, t.continuous)])

/-- R140: the frames of ADC_GET_CALIBRATION; o, g, su are what OFFSET, GAIN and SETUPCON hold. -/
def captureFrames (t : RegTable) (m : CkMode) (i : Ch) (o g su : List Byte) : List Frame :=
  [.read m (t.offset + chNumber i) o, .read m (t.gain + chNumber i) g, .read m (t.setupCon + chNumber i) su]

/-- R140, R94: the calibration record the three registers give. -/
def calRecord (t : RegTable) (o g su : List Byte) : AdcCal :=
  ⟨(be o).setWidth 24, (be g).setWidth 24, decide (fieldOf t.biUnipolar (be su) = 1)⟩

/-- R29: a channel record after a capture: written only while it is none. -/
def captured (c : Channel) (k : AdcCal) : Channel := { c with cal := if c.cal = none then some k else c.cal }

/-- What the ADC's registers hold in the course of ADC_INIT: for each channel SETUPCON, FILTCON, CH before its setup and OFFSET,
GAIN, SETUPCON at the capture. -/
structure AdcContents where
  id : List Byte
  ifmode : List Byte
  setup0 : List Byte × List Byte × List Byte
  setup1 : List Byte × List Byte × List Byte
  mode1 : List Byte
  mode2 : List Byte
  waits : List (List Byte)
  ready : List Byte
  cal0 : List Byte × List Byte × List Byte
  cal1 : List Byte × List Byte × List Byte
deriving DecidableEq, Repr

/-- R137: IFMODE.CRC_EN set to a mode's code (R90). -/
def withCrcEn (t : RegTable) (m : CkMode) : BitVec 32 → BitVec 32 :=
  withFields [(t.crcEn, match m with | .off => t.crcOff | .xor => t.crcXor | .crc => t.crcCrc)]

/-- R147: the frames of ADC_INIT against a fault-free ADC. -/
def initFrames (cfg : Params) (r : AdcContents) : List Frame :=
  let t := cfg.tables.regs
  [.reset, .read .off t.id r.id] ++ updateFrames .off t.ifMode r.ifmode (withCrcEn t cfg.initCkMode) ++
  setupFrames cfg.tables cfg.initCkMode .c0 cfg.setupOdr cfg.inputs.c0.1 cfg.inputs.c0.2 r.setup0.1 r.setup0.2.1 r.setup0.2.2 ++
  setupFrames cfg.tables cfg.initCkMode .c1 cfg.setupOdr cfg.inputs.c1.1 cfg.inputs.c1.2 r.setup1.1 r.setup1.2.1 r.setup1.2.2 ++
  calibrateFrames t cfg.initCkMode r.mode1 r.mode2 r.waits r.ready ++
  captureFrames t cfg.initCkMode .c0 r.cal0.1 r.cal0.2.1 r.cal0.2.2 ++
  captureFrames t cfg.initCkMode .c1 r.cal1.1 r.cal1.2.1 r.cal1.2.2

/-- R136, R139: the contents an ADC of the right family that becomes ready shows. -/
def AdcContents.plausible (cfg : Params) (r : AdcContents) : Bool :=
  isFamily cfg ((be r.id).setWidth 16) && r.waits.all (fun w => !isReady cfg.tables.regs w) && isReady cfg.tables.regs r.ready

/-- R147: the block after the ADC_INIT body. -/
def afterInit (b : Block) (r : AdcContents) (as rest : List Answer) : Block :=
  { afterFrames b (initFrames b.cfg r) as rest with
    phase := .run
    ckmode := b.cfg.initCkMode
    adcId := some ((be r.id).setWidth 16)
    ch := ⟨captured b.ch.c0 (calRecord b.cfg.tables.regs r.cal0.1 r.cal0.2.1 r.cal0.2.2),
      captured b.ch.c1 (calRecord b.cfg.tables.regs r.cal1.1 r.cal1.2.1 r.cal1.2.2)⟩ }

/-- R64, R216, log 14: the block after a reset frame whose transfer failed. -/
def afterResetFail (b : Block) (rest : List Answer) : Block :=
  { b with script := rest, ports := b.ports + 1
           hist := .pin .nssAdc .high :: .spiFail .adc (List.replicate 8 0xFF#8) :: .pin .nssAdc .low :: b.hist }

/-- The ID held is of the family (R28). -/
def idOfFamily (b : Block) : Prop := ∃ id : BitVec 16, b.adcId = some id ∧ isFamily b.cfg id = true

/-- R24, R147, R222: what an ADC_INIT that began on b has done in a block whose phase names the step it is in, or RUN after the
last: the steps before keep their effects, the step itself and those after it have not had theirs. -/
def initReached (b t : Block) : Prop :=
  let kept (ch : Ch) : Prop := (t.ch.get ch).cal = (b.ch.get ch).cal
  match t.phase with
  | .uninit => False
  | .reset => t.ckmode = b.ckmode ∧ t.adcId = b.adcId ∧ kept .c0 ∧ kept .c1
  | .identify => t.ckmode = .off ∧ t.adcId = b.adcId ∧ kept .c0 ∧ kept .c1
  | .cksum => t.ckmode = .off ∧ idOfFamily t ∧ kept .c0 ∧ kept .c1
  | .setup => t.ckmode = b.cfg.initCkMode ∧ idOfFamily t ∧ kept .c0 ∧ kept .c1
  | .calibrate => t.ckmode = b.cfg.initCkMode ∧ idOfFamily t ∧ kept .c0 ∧ kept .c1
  | .capture => t.ckmode = b.cfg.initCkMode ∧ idOfFamily t ∧ kept .c1
  | .run => t.ckmode = b.cfg.initCkMode ∧ idOfFamily t ∧ (t.ch.get .c0).cal.isSome = true ∧ (t.ch.get .c1).cal.isSome = true

/-- R147, R216, R219: the errors each step of ADC_INIT can end with, as rStatus and rD: Transport at the ADC port (1, 0), and with a
retry budget RetriesExhausted (5) of the loops READ (1), WRITE (2), ID (3) and POLL (4) the step enters. -/
def initErrors : Phase → List (BitVec 8 × BitVec 32)
  | .uninit => []
  | .reset => [(1#8, 0#32)]
  | .identify => [(1#8, 0#32), (5#8, 1#32), (5#8, 3#32)]
  | .cksum => [(1#8, 0#32), (5#8, 1#32), (5#8, 2#32)]
  | .setup => [(1#8, 0#32), (5#8, 1#32), (5#8, 2#32)]
  | .calibrate => [(1#8, 0#32), (5#8, 1#32), (5#8, 2#32), (5#8, 4#32)]
  | .capture => [(1#8, 0#32), (5#8, 1#32)]
  | .run => []

/-- R215: a command that ended with an error did so with one of these codes and infos. -/
def endedWith (t : State) (errors : List (BitVec 8 × BitVec 32)) : Prop :=
  ∃ info : BitVec 32, t.rD = some info ∧ (t.rStatus, info) ∈ errors

/-! DAC frames. -/

/-- R100: the three bytes of the DAC word 0000 v 00. -/
def dacBytes (v : DacCode) : List Byte :=
  [(0#4 ++ v ++ 0#2).extractLsb' 16 8, (0#4 ++ v ++ 0#2).extractLsb' 8 8, (0#4 ++ v ++ 0#2).extractLsb' 0 8]

/-- R156: the events of a completed DAC frame, newest first, by the pin's idle level. -/
def dacEvents (idle : Level) (ch : Ch) (v : DacCode) (a : Answer) : List Event :=
  match idle with
  | .high => [.pin (.sync ch) .high, .spi (.dac ch) (dacBytes v) (fitBytes 3 a.bytes), .pin (.sync ch) .low]
  | .low => [.spi (.dac ch) (dacBytes v) (fitBytes 3 a.bytes), .pin (.sync ch) .low, .pin (.sync ch) .high]

/-- R156: the events of a DAC frame whose transfer fails, newest first. -/
def dacFailEvents (idle : Level) (ch : Ch) (v : DacCode) : List Event :=
  match idle with
  | .high => [.pin (.sync ch) .high, .spiFail (.dac ch) (dacBytes v), .pin (.sync ch) .low]
  | .low => [.spiFail (.dac ch) (dacBytes v), .pin (.sync ch) .low, .pin (.sync ch) .high]

/-- R155, R156: the block after a code has been sent to channel ch's DAC, which answered a. -/
def afterDac (b : Block) (ch : Ch) (v : DacCode) (a : Answer) (rest : List Answer) : Block :=
  { b with script := rest, ports := b.ports + 1
           hist := dacEvents (b.cfg.syncIdle.get ch) ch v a ++ b.hist
           sync := b.sync.set ch (some (b.cfg.syncIdle.get ch))
           ch := b.ch.set ch { b.ch.get ch with dacCode := v } }

/-- R156, R216: the block after a DAC frame whose transfer failed: the sync pin at its idle level, dac_code as it was. -/
def afterDacFail (b : Block) (ch : Ch) (v : DacCode) (rest : List Answer) : Block :=
  { b with script := rest, ports := b.ports + 1
           hist := dacFailEvents (b.cfg.syncIdle.get ch) ch v ++ b.hist
           sync := b.sync.set ch (some (b.cfg.syncIdle.get ch)) }

/-- R205: the block after the driver enable of channel ch has been driven. -/
def afterTec (b : Block) (ch : Ch) (f : Bool) : Block :=
  { b with hist := .pin (.tecEn ch) (if f then .high else .low) :: b.hist
           ch := b.ch.set ch { b.ch.get ch with tecEn := f } }

/-! The calibration search (R208). -/

/-- The codes of one pass: start, start + step, ... up to DAC_MAX. -/
def passCodes (step start : Nat) : List Nat := List.range' start ((dacMax - start) / step + 1) step

/-- The codes a pass visits: those whose feedback is accepted, and the first that is not. -/
def passVisits (ok : Nat → Bool) (step start : Nat) : List Nat :=
  (passCodes step start).takeWhile ok ++ ((passCodes step start).dropWhile ok).take 1

/-- The best code after a pass: the last accepted, else the one before the pass. -/
def passBest (ok : Nat → Bool) (step start : Nat) (best : Option Nat) : Option Nat :=
  (((passCodes step start).takeWhile ok).getLast?).or best

/-- The visits of the passes of step sizes 2^k, ..., 2, 1 after `best`. -/
def searchVisits (ok : Nat → Bool) : Nat → Option Nat → List Nat
  | 0, best => passVisits ok 1 (best.getD 0)
  | k + 1, best =>
    passVisits ok (2 ^ (k + 1)) (best.getD 0) ++ searchVisits ok k (passBest ok (2 ^ (k + 1)) (best.getD 0) best)

/-- The best code of the passes of step sizes 2^k, ..., 2, 1 after `best`. -/
def searchBest (ok : Nat → Bool) : Nat → Option Nat → Option Nat
  | 0, best => passBest ok 1 (best.getD 0) best
  | k + 1, best => searchBest ok k (passBest ok (2 ^ (k + 1)) (best.getD 0) best)

/-- R208: a feedback is accepted when it is not above the target. -/
def accepts (target : F64) (fb : Nat → F64) (v : Nat) : Bool := F64.le zeroF (F64.sub target (fb v))

/-- R209: a run of samples that settles at voltage v: each sample but the last differs from the one before by the tolerance or
more, the last by less, and the last is v. -/
def settlesAt (tol v : F64) : List Answer → Bool
  | a :: b :: later =>
    !a.fails && (if F64.lt (F64.abs (F64.sub b.volts a.volts)) tol = true
      then !b.fails && later.isEmpty && b.volts == v else settlesAt tol v (b :: later))
  | [_] => false
  | [] => false

/-- The events of feedback samples, newest first. -/
def sampleEvents (ch : Ch) (src : FbSource) (as : List Answer) : List Event := as.reverse.map (fun a => .fb ch src a.volts)

/-- One code of the search: the code, what the DAC answers (any bytes: R66, R156), and the samples until they settle. -/
structure Visit where
  code : Nat
  dac : Answer
  samples : List Answer
deriving DecidableEq, Repr

/-- The answers of the agents during one calibration: the samples of VREF (none in mode FACTOR), the visits, the DAC's answer to
the return to zero. -/
structure CalAnswers where
  vref : List Answer
  visits : List Visit
  zero : Answer
deriving DecidableEq, Repr

/-- All of them, in order. -/
def CalAnswers.all (r : CalAnswers) : List Answer :=
  r.vref ++ r.visits.flatMap (fun v => v.dac :: v.samples) ++ [r.zero]

/-- The events of the visits, newest first. -/
def visitEvents (idle : Level) (ch : Ch) : List Visit → List Event
  | [] => []
  | v :: vs => visitEvents idle ch vs ++
      (sampleEvents ch .dacFb v.samples ++ dacEvents idle ch (BitVec.ofNat 18 v.code) v.dac)

/-- What a calibration of a channel meets: the voltage VREF settles at (used in CAL_MODE VREF_BIAS) and the one each code's
feedback settles at. -/
structure Sampler where
  vref : F64
  fb : Nat → F64

/-- R208: the search's target. -/
def calTargetOf (p : Params) (w : Sampler) : F64 :=
  match p.calMode with
  | .factor => p.calFixedTarget
  | .vrefBias => w.vref

/-- The codes the whole search visits. -/
def calVisits (p : Params) (w : Sampler) : List Nat := searchVisits (accepts (calTargetOf p w) w.fb) p.calStartLog none

/-- The code the search ends with. -/
def calBest (p : Params) (w : Sampler) : Option Nat := searchBest (accepts (calTargetOf p w) w.fb) p.calStartLog none

/-- R208, R209: these are the answers of a DAC that takes every code and a sampler that settles at w's voltages, over the codes the
search visits. -/
def CalAnswers.fits (p : Params) (w : Sampler) (r : CalAnswers) : Bool :=
  (match p.calMode with | .factor => r.vref.isEmpty | .vrefBias => settlesAt p.calTol w.vref r.vref) &&
  r.visits.map (·.code) == calVisits p w &&
  r.visits.all (fun v => !v.dac.fails && settlesAt p.calTol (w.fb v.code) v.samples) && !r.zero.fails

/-- R209, R219: every run of samples settles within the retry budget: its first two samples are no retry. -/
def CalAnswers.inBudget (b : Block) (r : CalAnswers) : Prop :=
  mayRetry b (r.vref.length - 2) ∧ ∀ v ∈ r.visits, mayRetry b (v.samples.length - 2)

/-- The agents' next answers are `r`, those of a calibration that w describes, within the retry budget; `rest` comes after them. -/
def calibrates (b : Block) (w : Sampler) (r : CalAnswers) (rest : List Answer) : Prop :=
  r.fits b.cfg w = true ∧ r.inBudget b ∧ b.script = r.all ++ rest

/-- R208: the channel record after the search. -/
def calibratedRecord (p : Params) (w : Sampler) (c : Channel) : Channel :=
  let c0 := { c with calFailed := false, dacCode := 0#18 }
  match p.calMode, calBest p w with
  | _, none => { c0 with calFailed := true }
  | .factor, some 0 => { c0 with calFailed := true }
  | .factor, some b => { c0 with dacFs := F64.div (F64.mul (calTargetOf p w) (F64.ofNat 262143)) (F64.ofNat b) }
  | .vrefBias, some b => { c0 with vrefMeas := F64.mul (F64.div (F64.ofNat b) (F64.ofNat 262143)) c.dacFs }

/-- R208: the block after CH_CALIBRATE_DAC on channel ch. -/
def afterCalibrate (b : Block) (ch : Ch) (w : Sampler) (r : CalAnswers) (rest : List Answer) : Block :=
  { b with script := rest, ports := b.ports + r.all.length
           hist := dacEvents (b.cfg.syncIdle.get ch) ch 0#18 r.zero ++
             (visitEvents (b.cfg.syncIdle.get ch) ch r.visits ++ (sampleEvents ch .vref r.vref ++ b.hist))
           sync := b.sync.set ch (some (b.cfg.syncIdle.get ch))
           ch := b.ch.set ch (calibratedRecord b.cfg w (b.ch.get ch)) }

/-! Channel arithmetic. -/

/-- R190: ADC code to volts under a calibration. -/
def voltsOf (p : Params) (k : AdcCal) (code : AdcCode) : F64 :=
  let x := if k.bipolar then F64.sub (F64.ofNat code.toNat) (F64.ofNat 0x800000)
    else F64.mul (F64.ofNat code.toNat) p.adcUnipolarScale
  let x := F64.div x (F64.div (F64.ofNat k.gain.toNat) (F64.ofNat 0x400000))
  let x := F64.sub x (F64.sub (F64.ofNat k.offset.toNat) (F64.ofNat 0x800000))
  F64.mul (F64.mul (F64.div x (F64.ofNat 0x1000000)) p.adcVref) p.adcK

/-- R160, R161: resistance to kelvin, none where the sensor reading is not a positive finite resistance or the temperature is
not finite. -/
def kelvinOf (p : ShParams) (r : F64) : Option F64 :=
  let t := F64.div (F64.ofNat 1) (F64.add (F64.div (F64.ofNat 1) p.t0) (F64.div (Config.ln (F64.div r p.r0)) p.b))
  if F64.isFinite r = true ∧ F64.lt zeroF r = true ∧ F64.isFinite t = true then some t else none

/-- R196: a channel's temperature in degrees Celsius. -/
def celsiusOf (p : Params) (c : Channel) : Option F64 :=
  match c.adcData, c.cal with
  | some code, some k => (kelvinOf c.sh (Config.feR (voltsOf p k code))).map (fun t => F64.sub t p.kelvinOffset)
  | _, _ => none

/-- R189: the zero-current voltage. -/
def centerOf (c : Channel) : F64 :=
  match c.center with
  | .vref => c.vrefMeas
  | .override v => v

/-- R192, R193: the code of a current, about a center voltage. -/
def codeOfCurrent (c : Channel) (center i : F64) : DacCode :=
  toCode (F64.div (F64.mul (F64.add center (F64.mul i (F64.mul (F64.ofNat 10) (F64.ofRatio 5 100)))) (F64.ofNat 262143)) c.dacFs)

/-- R192, R193: the current of the code last sent. -/
def currentOf (c : Channel) : F64 :=
  F64.div (F64.sub (F64.mul (F64.div (F64.ofNat c.dacCode.toNat) (F64.ofNat 262143)) c.dacFs) (centerOf c))
    (F64.mul (F64.ofNat 10) (F64.ofRatio 5 100))

/-- R201, R207: no controller drives the channel's output. -/
def manual (c : Channel) : Prop := c.pidEngaged = false ∧ c.iirEngaged = false ∧ c.mtxSel = none

/-- R195: a channel record after a sample. -/
def sampledRecord (p : Params) (c : Channel) (code : AdcCode) (now : BitVec 32) : Channel :=
  { c with
    adcInterval := match c.adcTime with
      | some last => some (F64.div (F64.ofNat (now - last).toNat) (F64.ofNat 1000))
      | none => none
    adcTime := some now
    adcData := if code = p.sentinel then none else some code }

/-- R213, R207: the block in the control step of POLL_ADC after the two reads, the sample and the matrix tick. -/
def afterPoll (b : Block) (fs : List Frame) (ch : Ch) (code : AdcCode) (as rest : List Answer) : Block :=
  let b1 := afterFrames b fs as rest
  let b2 := { b1 with ch := b1.ch.set ch (sampledRecord b1.cfg (b1.ch.get ch) code b.opM) }
  { b2 with mtx := b2.ticked }

/-- R153: the block after DAC_INIT. -/
def afterDacInit (b : Block) (ch : Ch) : Block :=
  { b with hist := .pin (.sync ch) (b.cfg.syncIdle.get ch) :: b.hist
           sync := b.sync.set ch (some (b.cfg.syncIdle.get ch)) }

/-- R106, R57: the operands of a command are legal in this state. -/
def commandLegal (i : Instr) (s : State) : Bool :=
  i.wellFormed s.cfg.tables &&
  (match i with
  | .adcWriteReg a => decide (s.opD.toNat < 2 ^ (8 * s.cfg.tables.regs.width a))
  | .adcUpdateReg a =>
    decide (s.opD.toNat < 2 ^ (8 * s.cfg.tables.regs.width a)) && decide (s.opM.toNat < 2 ^ (8 * s.cfg.tables.regs.width a))
  | .chConvertData _ => decide (s.opD.toNat ≤ 0xFFFFFF)
  | .chSample _ => decide (s.opD.toNat ≤ 0xFFFFFF)
  | _ => true)

/-- The four wire rows of the opcode table, which are not commands. -/
def isWire : Instr → Bool
  | .spiReadCmd _ => true
  | .spiWriteCmd _ => true
  | .spiResetFrame => true
  | .dacWord _ => true
  | _ => false

/-- R49, R130: the commands that read an ADC register through ReadReg, a write's readback included. -/
def readsAdcRegister : Instr → Bool
  | .adcReadReg _ => true
  | .adcWriteReg _ => true
  | .adcUpdateReg _ => true
  | .adcIdentify => true
  | .adcSetChecksumMode _ => true
  | .adcSetupChannel _ _ _ => true
  | .adcCalibrateOffset => true
  | .adcGetCalibration _ => true
  | .adcGetPostfilter _ => true
  | .adcSetPostfilter _ _ => true
  | .adcDataReady => true
  | .adcReadData => true
  | .adcInit => true
  | .pollAdc => true
  | .blockInit => true
  | _ => false

/-! The tables of reports. -/

/-- R95, R141: what a FILTCON value says of its postfilter: the code, when the filter is on and the code is a PostFilter value. -/
def postfilterReport (T : AdcTables) (v : BitVec 32) : Option (BitVec 32) :=
  if fieldOf T.regs.enhFiltEn v = 1 ∧ fieldOf T.regs.enhFilt v ∈ T.postfilters.map (·.1.toNat) then
    some (BitVec.ofNat 32 (fieldOf T.regs.enhFilt v))
  else none

/-- R211: the channel fields: id and what it reports. -/
def channelFields (b : Block) (ch : Ch) : List (BitVec 8 × Results) :=
  let c := b.ch.get ch
  let flag (f : Bool) : Option (BitVec 32) := some (if f then 1#32 else 0#32)
  [(0x00#8, { rD := c.adcData.map (·.setWidth 32) }), (0x01#8, { rD := c.adcTime }), (0x02#8, { rA := c.adcInterval }),
    (0x03#8, { rA := some c.vrefMeas }),
    (0x04#8, { rD := some (match c.center with | .vref => 0#32 | .override _ => 1#32) }),
    (0x05#8, { rA := match c.center with | .vref => none | .override v => some v }),
    (0x06#8, { rD := some (c.dacCode.setWidth 32) }), (0x07#8, { rA := some c.dacFs }), (0x08#8, { rD := flag c.pidEngaged }),
    (0x09#8, { rD := flag c.iirEngaged }), (0x0A#8, { rD := c.mtxSel.map (fun k => (slotCode k).setWidth 32) }),
    (0x0B#8, { rD := flag c.tecEn }), (0x0C#8, { rD := flag c.calFailed }),
    (0x0D#8, { rD := c.cal.map (fun k => k.offset.setWidth 32) }), (0x0E#8, { rD := c.cal.map (fun k => k.gain.setWidth 32) }),
    (0x0F#8, { rD := c.cal.map (fun k => if k.bipolar then 1#32 else 0#32) }),
    (0x10#8, { rA := some c.sh.t0 }), (0x11#8, { rA := some c.sh.r0 }), (0x12#8, { rA := some c.sh.b }),
    (0x13#8, { rD := (b.sync.get ch).map (fun l => if l = .high then 1#32 else 0#32) })] ++
  [(0x20#8, { rA := some c.pid.kp }), (0x21#8, { rA := some c.pid.ki }), (0x22#8, { rA := some c.pid.kd }),
    (0x23#8, { rA := some c.pid.outputMin }), (0x24#8, { rA := some c.pid.outputMax }),
    (0x25#8, { rA := some c.pid.integralMin }), (0x26#8, { rA := some c.pid.integralMax }),
    (0x27#8, { rA := some c.pid.target }), (0x28#8, { rA := some c.pid.integral }), (0x29#8, { rA := c.pid.lastInput }),
    (0x2A#8, { rA := c.pid.lastOutput })] ++
  [(0x30#8, { rA := some c.iir.ba.e0 }), (0x31#8, { rA := some c.iir.ba.e1 }), (0x32#8, { rA := some c.iir.ba.e2 }),
    (0x33#8, { rA := some c.iir.ba.e3 }), (0x34#8, { rA := some c.iir.ba.e4 }), (0x35#8, { rA := some c.iir.xy.e0 }),
    (0x36#8, { rA := some c.iir.xy.e1 }), (0x37#8, { rA := some c.iir.xy.e2 }), (0x38#8, { rA := some c.iir.xy.e3 }),
    (0x39#8, { rA := some c.iir.xy.e4 }), (0x3A#8, { rA := some c.iir.target }), (0x40#8, { rA := some c.pwm.maxIPos }),
    (0x41#8, { rA := some c.pwm.maxINeg }), (0x42#8, { rA := some c.pwm.maxV }), (0x50#8, { rA := celsiusOf b.cfg c }),
    (0x51#8, { rA := some (currentOf c) }),
    (0x52#8, { rA := some (F64.mul (F64.div (F64.ofNat c.dacCode.toNat) (F64.ofNat 262143)) c.dacFs) })]

/-- R104: a selector's code. -/
def selectorCode : Source → BitVec 32
  | .const => 0#32
  | .temp .c0 => 1#32
  | .temp .c1 => 2#32
  | .filter k => 8#32 + (slotCode k).setWidth 32

/-- R211: the matrix fields. -/
def matrixFields (m : MtxSlot) : List (BitVec 8 × Results) :=
  [(0x60#8, { rA := some m.ba.e0 }), (0x61#8, { rA := some m.ba.e1 }), (0x62#8, { rA := some m.ba.e2 }),
    (0x63#8, { rA := some m.ba.e3 }), (0x64#8, { rA := some m.ba.e4 }), (0x65#8, { rA := some m.xy.e0 }),
    (0x66#8, { rA := some m.xy.e1 }), (0x67#8, { rA := some m.xy.e2 }), (0x68#8, { rA := some m.xy.e3 }),
    (0x69#8, { rA := some m.xy.e4 }), (0x6A#8, { rD := some (selectorCode m.inSel) }),
    (0x6B#8, { rA := some m.inConst }), (0x6C#8, { rD := some (selectorCode m.tgtSel) }),
    (0x6D#8, { rA := some m.tgtConst }), (0x6E#8, { rA := some m.out })]

/-- R211: phase numbers. -/
def phaseNumber : Phase → BitVec 32
  | .uninit => 0#32
  | .reset => 1#32
  | .identify => 2#32
  | .cksum => 3#32
  | .setup => 4#32
  | .calibrate => 5#32
  | .capture => 6#32
  | .run => 7#32

/-- R211: the block fields. -/
def blockFields (b : Block) : List (BitVec 8 × Results) :=
  let mode (m : CkMode) : Option (BitVec 32) := some (match m with | .off => 0#32 | .xor => 1#32 | .crc => 2#32)
  [(0xF0#8, { rD := some (phaseNumber b.phase) }),
    (0xF1#8, { rD := mode b.ckmode }), (0xF2#8, { rD := b.adcId.map (·.setWidth 32) }), (0xF3#8, { rD := some b.rc.read }),
    (0xF4#8, { rD := some b.rc.write }), (0xF5#8, { rD := some b.rc.id }), (0xF6#8, { rD := mode b.ck.mode }),
    (0xF7#8, { rD := some (b.ck.acc.setWidth 32) }),
    (0xF8#8, { rD := some (match b.nss with | .low => 0#32 | .high => 1#32) })]

/-! What holds between any two steps. -/

/-- The level of the last PinSet event of a pin in a history (newest first). -/
def lastLevel (p : Pin) : List Event → Option Level
  | [] => none
  | .pin q l :: es => if q = p then some l else lastLevel p es
  | _ :: es => lastLevel p es

/-- The bytes of the last completed transfer to channel ch's DAC. -/
def lastDacFrame (ch : Ch) : List Event → Option (List Byte)
  | [] => none
  | .spi q out _ :: es => if q = .dac ch then some out else lastDacFrame ch es
  | _ :: es => lastDacFrame ch es

/-- R159 (c), R47, R39: one channel's outputs agree with the history: dac_code is the code of the last completed DAC frame (0 if
none), sync is the level last driven and idle, the driver enable is the level last driven (off if none); R32: no
stored sample is the sentinel. -/
def channelOk (b : Block) (ch : Ch) : Bool :=
  ((lastDacFrame ch b.hist).getD (dacBytes 0#18) == dacBytes (b.ch.get ch).dacCode) &&
  (b.sync.get ch == lastLevel (.sync ch) b.hist) &&
  ((b.sync.get ch).all (· == b.cfg.syncIdle.get ch)) &&
  ((lastLevel (.tecEn ch) b.hist).getD .low == Level.ofBool (b.ch.get ch).tecEn) &&
  ((b.ch.get ch).adcData.all (· != b.cfg.sentinel))

/-- R27, R28: the chip-select is released, as the history says, and a stored ID is of the family; and both channels are in
order. -/
def blockOk (b : Block) : Bool :=
  b.nss == .high && (lastLevel .nssAdc b.hist).getD .high == .high &&
  b.adcId.all (isFamily b.cfg) &&
  channelOk b .c0 && channelOk b .c1

/-- A machine between two steps: the block is in order, and so is the block a command in progress began with. -/
def InOrder (s : State) : Prop := blockOk s.toBlock = true ∧ s.running.all (fun r => blockOk r.entry) = true

end Sys2Proof.Safety
end

