-- ==== Sys2Proof/Certificates/Slice0/Obligations.lean ====
section
/-! DEFINITION. The statements for the provers. Where a statement needs answers of the port agents it says so through State's
own list of answers (`converses`, R69); `completed`, `failed` and `inProgress` are the three ways a command leaves the machine.
A premise `nss = high` is the invariant `Safety.InOrder`, a statement of its own. Where a statement names the events of a transfer
that asks for no particular bytes, they hold the bytes that came back cut or padded to the length sent (log 1, the model's form);
a failed transfer is an event of its own (log 14); after an error rM is none (log 16). -/

open Sys2Proof Sys2Proof.Machine Sys2Proof.Safety

/-! Encoding. -/

/-- R82, R85, R100 to R105: whatever the block's tables (R9, D6), every well-formed instruction's encoding decodes to it. -/
def Obligations.DecodeOfEncode : Prop :=
  ∀ (T : AdcTables) (i : Instr), i.wellFormed T = true → decode T (encode i) = .ok i

/-- R106, R107: a word that decodes is the encoding of the well-formed instruction it decodes to; so no bit of it is ignored and
every other word is refused. -/
def Obligations.EncodeOfDecode : Prop :=
  ∀ (T : AdcTables) (raw : Raw) (i : Instr), decode T raw = .ok i → encode i = raw ∧ i.wellFormed T = true

/-- R82 to R85, R100 to R105: one word of every family, written out, decodes on the block right after reset; and the tables of that
block are REG_TABLE (R86 to R96), SETUP_CFG (R97) and POSTFILTER (R98), rates as their bits. That the tables are held in the state,
and in this form, is the model's choice (log 3). -/
def Obligations.WrittenOutWordsDecode : Prop :=
  let T := State.reset.cfg.tables
  decode T (.cmd32 0x02000001#32) = .ok (.ckFeed 0x01#8) ∧
  decode T (.cmd32 0x16200062#32) = .ok (.adcSetupChannel .c1 0b00010#5 0b00011#5) ∧
  decode T (.cmd32 0x1A00000D#32) = .ok (.adcSetPostfilter .c0 (some 0b101#3)) ∧
  decode T (.cmd32 0x21200000#32) = .ok (.dacSetCode .c1) ∧
  decode T (.cmd32 0x31080000#32) = .ok (.shSetParam .c0 .b) ∧
  decode T (.cmd32 0x42380000#32) = .ok (.pidSetParam .c1 .integralMax) ∧
  decode T (.cmd32 0x56E4000F#32) = .ok (.mtxSetSource .k7 .target (.filter .k7)) ∧
  decode T (.cmd32 0x6900000A#32) = .ok (.chSetMtxSel .c0 (some .k2)) ∧
  decode T (.cmd32 0x6D20006E#32) = .ok (.chReadField 0b001#3 0x6E#8) ∧
  decode T (.cmd32 0x70000000#32) = .ok .pollAdc ∧
  decode T (.spi8 0x47#8) = .ok (.spiReadCmd 0x07#6) ∧
  decode T (.spi8 0x02#8) = .ok (.spiWriteCmd 0x02#6) ∧
  decode T (.reset64 0xFFFFFFFFFFFFFFFF#64) = .ok .spiResetFrame ∧
  decode T (.dac24 0x048D14#24) = .ok (.dacWord 0x12345#18) ∧
  T.regs =
    { rows :=
        [⟨0x00#6, 1, false⟩, ⟨0x01#6, 2, true⟩, ⟨0x02#6, 2, true⟩, ⟨0x03#6, 3, false⟩, ⟨0x04#6, 3, false⟩,
          ⟨0x06#6, 2, true⟩, ⟨0x07#6, 2, false⟩, ⟨0x10#6, 2, true⟩, ⟨0x11#6, 2, true⟩, ⟨0x12#6, 2, true⟩, ⟨0x13#6, 2, true⟩,
          ⟨0x20#6, 2, true⟩, ⟨0x21#6, 2, true⟩, ⟨0x22#6, 2, true⟩, ⟨0x23#6, 2, true⟩, ⟨0x28#6, 2, true⟩, ⟨0x29#6, 2, true⟩,
          ⟨0x2A#6, 2, true⟩, ⟨0x2B#6, 2, true⟩, ⟨0x30#6, 3, true⟩, ⟨0x31#6, 3, true⟩, ⟨0x32#6, 3, true⟩, ⟨0x33#6, 3, true⟩,
          ⟨0x38#6, 3, true⟩, ⟨0x39#6, 3, true⟩, ⟨0x3A#6, 3, true⟩, ⟨0x3B#6, 3, true⟩]
      status := 0x00#6, adcMode := 0x01#6, ifMode := 0x02#6, data := 0x04#6, id := 0x07#6, ch := 0x10#6
      setupCon := 0x20#6, filtCon := 0x28#6, offset := 0x30#6, gain := 0x38#6
      ready := ⟨7, 7⟩, readyCode := 0, channel := ⟨1, 0⟩
      mode := ⟨6, 4⟩, systemOffset := 6, continuous := 0
      crcEn := ⟨3, 2⟩, crcOff := 0, crcXor := 1, crcCrc := 2
      idFamily := ⟨15, 4⟩
      chEn := ⟨15, 15⟩, setupSel := ⟨13, 12⟩, ainPos := ⟨9, 5⟩, ainNeg := ⟨4, 0⟩
      selectors := [0#5, 1#5, 2#5, 3#5, 4#5, 17#5, 18#5, 19#5, 20#5, 21#5, 22#5]
      biUnipolar := ⟨12, 12⟩, refBufPos := ⟨11, 11⟩, refBufNeg := ⟨10, 10⟩, ainBufPos := ⟨9, 9⟩, ainBufNeg := ⟨8, 8⟩
      refSel := ⟨5, 4⟩, enhFiltEn := ⟨11, 11⟩, enhFilt := ⟨10, 8⟩, order := ⟨6, 5⟩, odr := ⟨4, 0⟩ } ∧
  T.setup =
    { biUnipolar := 0, refBufPos := 1, refBufNeg := 1, ainBufPos := 1, ainBufNeg := 1, refSel := 0, enhFiltEn := 1
      enhFilt := 6, order := 0, chEn := 1 } ∧
  T.postfilters =
    [(2#3, 0x403B000000000000#64), (3#3, 0x4035400000000000#64), (5#3, 0x4034000000000000#64), (6#3, 0x4030AB851EB851EC#64)]

/-! The machine. -/

/-- R48, R51, R107, R238: what a step runs. A command in progress goes on, run again from the block it began with and
granted more retries (log 5, the model's choice), and a word that is pending meanwhile stays so (log 22); otherwise the word the
host started is decoded and run, and no longer pending; with nothing started the block waits (log 7). The word is CMD for a started command, the wire word for a bare wire row
(log 8, the model's choice). -/
def Obligations.StepRunsDecodedInstruction : Prop :=
  (∀ (s : State) (i : Instr), s.running = none → s.pending = .command → decode s.cfg.tables (.cmd32 s.cmd) = .ok i →
    step s = exec i { s with pending := .idle }) ∧
  (∀ (s : State) (raw : Raw) (i : Instr), s.running = none → s.pending = .wire raw → decode s.cfg.tables raw = .ok i →
    step s = exec i { s with pending := .idle }) ∧
  (∀ s : State, s.running = none → s.pending = .idle → step s = .next s) ∧
  (∀ (s : State) (r : Running), s.running = some r →
    step s = exec r.instr { toBlock := { r.entry with grant := r.entry.grant + 1000 }, pending := s.pending, running := none })

/-- R106, R215: a started command whose word the decoder refuses ends with IllegalCommand(CMD) and has no other effect (log 11);
a refused bare wire word ends with IllegalCommand and the word's low 32 bits (log 8, the model's choice). -/
def Obligations.RefusedWordEndsIllegal : Prop :=
  (∀ (s : State) (e : Reject), s.running = none → s.pending = .command → decode s.cfg.tables (.cmd32 s.cmd) = .error e →
    step s = .next (failed { s with pending := .idle } s.toBlock 2#8 s.cmd)) ∧
  (∀ (s : State) (raw : Raw) (e : Reject), s.running = none → s.pending = .wire raw → decode s.cfg.tables raw = .error e →
    step s = .next (failed { s with pending := .idle } s.toBlock 2#8
      (match raw with
        | .cmd32 w => w
        | .spi8 b => b.setWidth 32
        | .reset64 w => w.setWidth 32
        | .dac24 w => w.setWidth 32)))

/-- R217: a command with an illegal operand ends with IllegalCommand before any state write or port event; one that is legal never
ends so. The model's part in it: exec of a term no word decodes to ends so too (log 15, its choice), the info is the CMD word also
for an address, where R57 writes the address (log 11), and a mask wider than the register is illegal (log 19). -/
def Obligations.IllegalCommandOnlyAtDecode : Prop :=
  ∀ (i : Instr) (s : State), isWire i = false →
    (commandLegal i s = false → exec i s = .next (failed s s.toBlock 2#8 s.cmd)) ∧
    (commandLegal i s = true → ∀ t : State, exec i s = .next t → t.running = none → t.rStatus ≠ 2#8)

/-- R53, R236: the block right after reset, field by field (binary64 values as their bits). -/
def Obligations.ResetStateValues : Prop :=
  let s := State.reset
  s.phase = .uninit ∧ s.ck = ⟨.off, 0x00#8⟩ ∧ s.ckmode = .off ∧ s.nss = .high ∧ s.adcId = none ∧
  s.rc = ⟨0#32, 0#32, 0#32⟩ ∧
  (∀ ch : Ch, (s.ch.get ch).cal = none ∧ (s.ch.get ch).adcData = none ∧ (s.ch.get ch).adcTime = none ∧
    (s.ch.get ch).adcInterval = none ∧ (s.ch.get ch).vrefMeas = 0x3FF8000000000000#64 ∧ (s.ch.get ch).center = .vref ∧
    (s.ch.get ch).dacCode = 0#18 ∧ (s.ch.get ch).dacFs = 0x4014000000000000#64 ∧ (s.ch.get ch).pidEngaged = false ∧
    (s.ch.get ch).iirEngaged = false ∧ (s.ch.get ch).mtxSel = none ∧ (s.ch.get ch).tecEn = false ∧
    (s.ch.get ch).calFailed = false ∧
    (s.ch.get ch).sh = ⟨0x4072A26666666666#64, 0x40C3880000000000#64, 0x40AEDC0000000000#64⟩ ∧
    (s.ch.get ch).pid = ⟨0#64, 0#64, 0#64, 0#64, 0#64, 0#64, 0#64, 0#64, 0#64, none, none⟩ ∧
    (s.ch.get ch).iir = ⟨⟨0#64, 0#64, 0#64, 0#64, 0#64⟩, ⟨0#64, 0#64, 0#64, 0#64, 0#64⟩, 0#64⟩ ∧
    (s.ch.get ch).pwm = ⟨0#64, 0#64, 0#64⟩ ∧ s.sync.get ch = none) ∧
  (∀ k : Slot, s.mtx.get k = ⟨⟨0#64, 0#64, 0#64, 0#64, 0#64⟩, ⟨0#64, 0#64, 0#64, 0#64, 0#64⟩, .const, 0#64, .const, 0#64, 0#64⟩) ∧
  s.cmd = 0#32 ∧ s.opA = 0#64 ∧ s.opB = 0#64 ∧ s.opD = 0#32 ∧ s.opM = 0#32 ∧
  s.rStatus = 0#8 ∧ s.rD = none ∧ s.rM = none ∧ s.rA = none

/-- The invariant holds at reset. -/
def Obligations.ResetSatisfiesInv : Prop := InOrder State.reset

/-- R27, R28, R32, R39, R47, R159 (c): every step keeps the invariant: the chip-select is released, a stored ID is of the family,
no stored sample is the sentinel, dac_code is the code of the last completed DAC frame, and each pin is at the level last
driven, the sync pins idle (also after a DAC frame that failed: log 9; a pin and its flag tec_en are one field: log 10). -/
def Obligations.StepKeepsInv : Prop :=
  ∀ s t : State, InOrder s → step s = .next t → InOrder t

/-- R48, R81, R215, R226: a command that ends writes every result register and records them as its last event, after whatever port
events it made; an error has a code from 1 to 5, an info, and no other result. CMD, the operand registers and the parameters
are never written, and what is pending stays pending (log 22). A command in progress (log 5) leaves the result registers. -/
def Obligations.CommandEndWritesResults : Prop :=
  ∀ (i : Instr) (s t : State), exec i s = .next t →
    (t.running = none →
      (∃ evs : List Event, t.hist = .result t.rStatus t.rD t.rM t.rA :: (evs ++ s.hist)) ∧
      t.rStatus.toNat ≤ 5 ∧
      (t.rStatus ≠ 0#8 → t.rD.isSome = true ∧ t.rM = none ∧ t.rA = none)) ∧
    (t.running.isSome = true → t.rStatus = s.rStatus ∧ t.rD = s.rD ∧ t.rM = s.rM ∧ t.rA = s.rA) ∧
    t.cmd = s.cmd ∧ t.opA = s.opA ∧ t.opB = s.opB ∧ t.opD = s.opD ∧ t.opM = s.opM ∧ t.cfg = s.cfg ∧ t.pending = s.pending

/-- R219, R235: with a finite RETRY_LIMIT every command ends within its step. -/
def Obligations.FiniteRetryLimitTerminates : Prop :=
  ∀ (i : Instr) (s t : State) (limit : Nat), s.cfg.retryLimit = some limit → exec i s = .next t → t.running = none

/-- R49, R30: who writes the sequencer, the checksum engine and mode, the ID, each of the three retry counters, and the matrix. Of
the wire rows only the reset frame is among them; a bare read frame counts no retry (log 8, the model's choice). -/
def Obligations.SequencerAndMatrixWriters : Prop :=
  ∀ (i : Instr) (s t : State), exec i s = .next t →
    (i ≠ .adcInit → i ≠ .blockInit → t.phase = s.phase) ∧
    ((∀ m, i ≠ .ckInit m) → (∀ b, i ≠ .ckFeed b) → t.ck = s.ck) ∧
    (i ≠ .adcReset → (∀ m, i ≠ .adcSetChecksumMode m) → i ≠ .adcInit → i ≠ .blockInit → i ≠ .spiResetFrame →
      t.ckmode = s.ckmode) ∧
    (i ≠ .adcIdentify → i ≠ .adcInit → i ≠ .blockInit → t.adcId = s.adcId ∧ t.rc.id = s.rc.id) ∧
    (i ≠ .mtxTick → (∀ k c, i ≠ .mtxSetCoeff k c) → (∀ k r c, i ≠ .mtxSetSource k r c) → i ≠ .pollAdc → t.mtx = s.mtx) ∧
    ((∀ a, i ≠ .adcWriteReg a) → (∀ a, i ≠ .adcUpdateReg a) → (∀ m, i ≠ .adcSetChecksumMode m) →
      (∀ ch p n, i ≠ .adcSetupChannel ch p n) → i ≠ .adcCalibrateOffset → (∀ ch c, i ≠ .adcSetPostfilter ch c) →
      i ≠ .adcInit → i ≠ .blockInit → t.rc.write = s.rc.write) ∧
    (readsAdcRegister i = false → t.rc.read = s.rc.read)

/-- R49: who writes each field of a channel record; a command for one channel leaves the other's record as it was. -/
def Obligations.ChannelFieldWriters : Prop :=
  ∀ (i : Instr) (s t : State) (c : Ch), exec i s = .next t →
    (i ≠ .pidUpdate c → i ≠ .pidUpdateKi c → (∀ p, i ≠ .pidSetParam c p) → i ≠ .pollAdc →
      (t.ch.get c).pid = (s.ch.get c).pid) ∧
    (i ≠ .iirTick c → (∀ k, i ≠ .iirSetCoeff c k) → i ≠ .iirSetTarget c → i ≠ .pollAdc →
      (t.ch.get c).iir = (s.ch.get c).iir) ∧
    ((∀ p, i ≠ .shSetParam c p) → (t.ch.get c).sh = (s.ch.get c).sh) ∧
    ((∀ l, i ≠ .chSetPwmLimit c l) → (t.ch.get c).pwm = (s.ch.get c).pwm) ∧
    ((∀ p, i ≠ .chSetCenter c p) → (t.ch.get c).center = (s.ch.get c).center) ∧
    (i ≠ .chCalibrateDac c → i ≠ .blockInit → (t.ch.get c).vrefMeas = (s.ch.get c).vrefMeas ∧
      (t.ch.get c).dacFs = (s.ch.get c).dacFs ∧ (t.ch.get c).calFailed = (s.ch.get c).calFailed) ∧
    (i ≠ .chSample c → i ≠ .pollAdc → (t.ch.get c).adcData = (s.ch.get c).adcData ∧
      (t.ch.get c).adcTime = (s.ch.get c).adcTime ∧ (t.ch.get c).adcInterval = (s.ch.get c).adcInterval) ∧
    (i ≠ .chSetI c → i ≠ .chSetDacVolts c →
      ((∀ f, i ≠ .chSetPidEngaged c f) → (t.ch.get c).pidEngaged = (s.ch.get c).pidEngaged) ∧
      ((∀ f, i ≠ .chSetIirEngaged c f) → (t.ch.get c).iirEngaged = (s.ch.get c).iirEngaged) ∧
      ((∀ k, i ≠ .chSetMtxSel c k) → (t.ch.get c).mtxSel = (s.ch.get c).mtxSel)) ∧
    ((∀ f, i ≠ .chSetTecEn c f) → i ≠ .pollAdc → i ≠ .blockInit → (t.ch.get c).tecEn = (s.ch.get c).tecEn) ∧
    (i ≠ .dacSetCode c → i ≠ .dacSetVolts c → i ≠ .chSetI c → i ≠ .chSetDacVolts c → (∀ p, i ≠ .chSetCenter c p) →
      i ≠ .chCalibrateDac c → i ≠ .pollAdc → i ≠ .blockInit → (∀ v, i ≠ .dacWord v) →
      (t.ch.get c).dacCode = (s.ch.get c).dacCode) ∧
    (i ≠ .adcGetCalibration c → i ≠ .adcInit → i ≠ .blockInit → (t.ch.get c).cal = (s.ch.get c).cal)

/-- R29, R241: a captured calibration is never changed, by any instruction, re-initialisation included. -/
def Obligations.CalibrationCapturedOnce : Prop :=
  ∀ (i : Instr) (s t : State) (ch : Ch) (k : AdcCal), exec i s = .next t → (s.ch.get ch).cal = some k →
    (t.ch.get ch).cal = some k

/-! The checksum engine. -/

/-- R119 to R122, R124 to R126. -/
def Obligations.ChecksumCommandsComplete : Prop :=
  ∀ (s : State) (m : CkMode) (b : Byte),
    exec (.ckInit m) s = .next (completed s { s.toBlock with ck := ⟨m, 0x00#8⟩ } {}) ∧
    exec (.ckFeed b) s = .next (completed s
      { s.toBlock with
        ck := ⟨s.ck.mode, match s.ck.mode with
          | .off => s.ck.acc
          | .xor => s.ck.acc ^^^ b
          | .crc => crcSerial s.ck.acc b⟩ } {}) ∧
    exec .ckResult s = .next (completed s s.toBlock
      { rD := match s.ck.mode with
          | .off => none
          | .xor => some (s.ck.acc.setWidth 32)
          | .crc => some (s.ck.acc.setWidth 32) })

/-- R121, R119, R122: the engine's byte step in mode Crc, the one CK_FEED and every ADC frame use, equals the byte-wise form; the
check value of "123456789" is 0xF4; and, which follows from R121, a byte string followed by its own CRC has CRC 0. -/
def Obligations.CrcMatchesByteWiseForm : Prop :=
  (∀ acc b : Byte, ckFeedByte ⟨.crc, acc⟩ b = ⟨.crc, crcByte acc b⟩ ∧ crcByte acc b =
    (List.range 8).foldl (fun (a : Byte) _ => if a.getLsbD 7 = true then (a <<< 1) ^^^ 0x07#8 else a <<< 1) (acc ^^^ b)) ∧
  ckValue (ckFeedBytes (ckNew .crc) [0x31#8, 0x32#8, 0x33#8, 0x34#8, 0x35#8, 0x36#8, 0x37#8, 0x38#8, 0x39#8]) = some 0xF4#8 ∧
  (∀ (bytes : List Byte) (x : Byte), ckValue (ckFeedBytes (ckNew .crc) bytes) = some x →
    ckValue (ckFeedBytes (ckNew .crc) (bytes ++ [x])) = some 0x00#8)

/-! The ADC protocol. -/

/-- R58: register payloads are big-endian, in both directions. -/
def Obligations.PayloadsAreBigEndian : Prop :=
  (∀ x y z : Byte, be [x] = x.setWidth 32 ∧ be [x, y] = (x ++ y).setWidth 32 ∧ be [x, y, z] = (x ++ y ++ z).setWidth 32) ∧
  (∀ (n : Nat) (v : BitVec 32), n ≤ 4 → v.toNat < 2 ^ (8 * n) → be (bytesBe n v) = v) ∧
  (∀ p : List Byte, p.length ≤ 4 → bytesBe p.length (be p) = p)

/-- R134, R99, R127: each modification the block makes of an ADC register keeps every bit outside the fields it names, whatever
the tables; a field set holds the bits written to it; and the bits ADC_UPDATE_REG names come from its value operand. -/
def Obligations.UpdatesKeepOtherBits : Prop :=
  ∀ (T : AdcTables) (v : BitVec 32) (i : Ch) (m : CkMode) (code : BitVec 3) (odr inPos inNeg : BitVec 5) (mask new : BitVec 32)
    (f : BitField) (x n : Nat),
    let t := T.regs
    (outside n [t.mode] → (t.setMode x v).getLsbD n = v.getLsbD n) ∧
    (outside n [t.crcEn] → (t.setCrcEn m v).getLsbD n = v.getLsbD n) ∧
    (outside n [t.biUnipolar, t.refBufPos, t.refBufNeg, t.ainBufPos, t.ainBufNeg, t.refSel] →
      (T.setSetupCon v).getLsbD n = v.getLsbD n) ∧
    (outside n [t.enhFiltEn, t.enhFilt, t.order, t.odr] → (T.setFiltCon odr v).getLsbD n = v.getLsbD n) ∧
    (outside n [t.chEn, t.setupSel, t.ainPos, t.ainNeg] → (T.setChReg i inPos inNeg v).getLsbD n = v.getLsbD n) ∧
    (outside n [t.enhFiltEn, t.enhFilt] → (t.setPostfilter (some code) v).getLsbD n = v.getLsbD n) ∧
    (outside n [t.enhFiltEn] → (t.setPostfilter none v).getLsbD n = v.getLsbD n) ∧
    (f.lo ≤ n → n ≤ f.hi → n < 32 → (setFields [(f, x)] v).getLsbD n = x.testBit (n - f.lo)) ∧
    (mergeBits mask new v).getLsbD n = (if mask.getLsbD n then new.getLsbD n else v.getLsbD n)

/-- R64: a frame lowers the chip-select, transfers its parts in order, and raises the chip-select whether the frame succeeds or
fails; a failing transfer ends it with Transport at the ADC port. The bytes received are the agent's cut or padded to the length
sent (log 1), and the failing transfer is an event of its own (log 14). -/
def Obligations.AdcFrameReleasesChipSelect : Prop :=
  ∀ (b : Block) (parts : List (List Byte)) (as : List Answer) (a : Answer) (rest : List Answer),
    as.all (fun x => !x.fails) = true → a.fails = true →
    (parts.length = as.length → b.script = as ++ rest →
      adcFrame parts b = .ok (List.zipWith (fun out x => fitBytes out.length x.bytes) parts as)
        { b with nss := .high, script := rest, ports := b.ports + as.length
                 hist := .pin .nssAdc .high :: (transferEvents parts as ++ (.pin .nssAdc .low :: b.hist)) }) ∧
    (∀ (out : List Byte) (later : List (List Byte)), parts.length = as.length → b.script = as ++ a :: rest →
      adcFrame (parts ++ out :: later) b = .error (.raised (.transport .adc))
        { b with nss := .high, script := rest, ports := b.ports + as.length + 1
                 hist := .pin .nssAdc .high ::
                   (.spiFail .adc out :: (transferEvents parts as ++ (.pin .nssAdc .low :: b.hist))) })

/-- R135, R85: ADC_RESET: 8 bytes 0xFF in one frame, after which the local mode is Off; when the transfer fails the mode is
unchanged and the failed transfer is an event of its own (log 14). That the reset frame can be run by itself, and that it then does
the same, is the model's choice (log 8). -/
def Obligations.AdcResetCompletes : Prop :=
  ∀ (s : State) (as rest : List Answer), s.nss = .high →
    (converses s.toBlock [.reset] as rest →
      exec .adcReset s = .next (completed s { afterFrames s.toBlock [.reset] as rest with ckmode := .off } {}) ∧
      exec .spiResetFrame s = .next (completed s { afterFrames s.toBlock [.reset] as rest with ckmode := .off } {})) ∧
    (∀ a : Answer, s.script = a :: rest → a.fails = true →
      exec .adcReset s = .next (failed s (afterResetFail s.toBlock rest) 1#8 0#32) ∧
      exec .spiResetFrame s = .next (failed s (afterResetFail s.toBlock rest) 1#8 0#32))

/-- R130, R148, R151: ADC_READ_REG with any number of reads refused for their checksum, within the retry budget, before
the one accepted: only the failed read is repeated, each refusal counts once, and rD is the big-endian value. -/
def Obligations.AdcReadRegCompletes : Prop :=
  ∀ (s : State) (a : RegAddr) (p : List Byte) (bad : List (List Byte × Byte)) (as rest : List Answer),
    s.nss = .high → s.cfg.tables.regs.known a = true → mayRetry s.toBlock bad.length →
    converses s.toBlock (bad.map (fun q => Frame.corrupt s.ckmode a q.1 q.2) ++ [.read s.ckmode a p]) as rest →
    exec (.adcReadReg a) s = .next (completed s
      { afterFrames s.toBlock (bad.map (fun q => Frame.corrupt s.ckmode a q.1 q.2) ++ [.read s.ckmode a p]) as rest with
        rc := { s.rc with read := s.rc.read + BitVec.ofNat 32 bad.length } }
      { rD := some (be p) })

/-- R219 (budget L: at most L + 1 attempts, then RetriesExhausted of loop 1) and log 5 (no budget: the step stops after the
granted retries and the command stays in progress; the model's choice of where to cut). -/
def Obligations.AdcReadRegRetryBudget : Prop :=
  ∀ (s : State) (a : RegAddr) (bad : List (List Byte × Byte)) (as rest : List Answer),
    s.nss = .high → s.cfg.tables.regs.known a = true →
    converses s.toBlock (bad.map (fun q => Frame.corrupt s.ckmode a q.1 q.2)) as rest →
    (∀ limit : Nat, s.cfg.retryLimit = some limit → bad.length = limit + 1 →
      exec (.adcReadReg a) s = .next (failed s
        { afterFrames s.toBlock (bad.map (fun q => Frame.corrupt s.ckmode a q.1 q.2)) as rest with
          rc := { s.rc with read := s.rc.read + BitVec.ofNat 32 bad.length } } 5#8 1#32)) ∧
    (s.cfg.retryLimit = none → bad.length = s.grant + 1 →
      exec (.adcReadReg a) s = .next (inProgress s
        { afterFrames s.toBlock (bad.map (fun q => Frame.corrupt s.ckmode a q.1 q.2)) as rest with
          rc := { s.rc with read := s.rc.read + BitVec.ofNat 32 bad.length } } (.adcReadReg a)))

/-- R144, R145, R141: the commands that read one register and report a value. -/
def Obligations.AdcReadsComplete : Prop :=
  ∀ (s : State) (st p : List Byte) (i : Ch) (as rest : List Answer), s.nss = .high →
    let t := s.cfg.tables.regs
    (converses s.toBlock [.read s.ckmode t.status st] as rest →
      exec .adcDataReady s = .next (completed s (afterFrames s.toBlock [.read s.ckmode t.status st] as rest)
        { rD := if isReady t st then some (BitVec.ofNat 32 (fieldOf t.channel (be st))) else none })) ∧
    (converses s.toBlock [.read s.ckmode t.data p] as rest →
      exec .adcReadData s = .next (completed s (afterFrames s.toBlock [.read s.ckmode t.data p] as rest)
        { rD := some (be p) })) ∧
    (converses s.toBlock [.read s.ckmode (t.filtCon + chNumber i) p] as rest →
      exec (.adcGetPostfilter i) s = .next (completed s
        (afterFrames s.toBlock [.read s.ckmode (t.filtCon + chNumber i) p] as rest)
        { rD := postfilterReport s.cfg.tables (be p) }))

/-- R132, R149, R151: ADC_WRITE_REG with any number of write and readback cycles whose readback disagrees, within the retry
budget, before the one that agrees. -/
def Obligations.AdcWriteRegCompletes : Prop :=
  ∀ (s : State) (a : RegAddr) (bad : List (List Byte)) (as rest : List Answer),
    let t := s.cfg.tables.regs
    s.nss = .high → t.writable a = true → s.opD.toNat < 2 ^ (8 * t.width a) → mayRetry s.toBlock bad.length →
    (∀ q ∈ bad, q ≠ bytesBe (t.width a) s.opD) →
    let w : Frame := .write s.ckmode a (bytesBe (t.width a) s.opD)
    let fs : List Frame := bad.flatMap (fun q => [w, .read s.ckmode a q]) ++ [w, .read s.ckmode a (bytesBe (t.width a) s.opD)]
    converses s.toBlock fs as rest →
    exec (.adcWriteReg a) s = .next (completed s
      { afterFrames s.toBlock fs as rest with rc := { s.rc with write := s.rc.write + BitVec.ofNat 32 bad.length } } {})

/-- R133, R150: ADC_UPDATE_REG reads once, writes the value with the masked bits replaced, verifies it, and reports it. -/
def Obligations.AdcUpdateRegCompletes : Prop :=
  ∀ (s : State) (a : RegAddr) (p : List Byte) (as rest : List Answer),
    let t := s.cfg.tables.regs
    s.nss = .high → t.writable a = true → s.opD.toNat < 2 ^ (8 * t.width a) → s.opM.toNat < 2 ^ (8 * t.width a) →
    converses s.toBlock (updateFrames s.ckmode a p (withBits s.opM s.opD)) as rest →
    exec (.adcUpdateReg a) s = .next (completed s
      (afterFrames s.toBlock (updateFrames s.ckmode a p (withBits s.opM s.opD)) as rest)
      { rD := some (withBits s.opM s.opD (be p)) })

/-- R136: ADC_IDENTIFY with any number of wrong families, within the retry budget, before the right one. -/
def Obligations.AdcIdentifyCompletes : Prop :=
  ∀ (s : State) (bad : List (List Byte)) (p : List Byte) (as rest : List Answer),
    s.nss = .high → mayRetry s.toBlock bad.length →
    (∀ q ∈ bad, isFamily s.cfg ((be q).setWidth 16) = false) → isFamily s.cfg ((be p).setWidth 16) = true →
    let fs : List Frame := bad.map (Frame.read s.ckmode s.cfg.tables.regs.id) ++ [.read s.ckmode s.cfg.tables.regs.id p]
    converses s.toBlock fs as rest →
    exec .adcIdentify s = .next (completed s
      { afterFrames s.toBlock fs as rest with
        adcId := some ((be p).setWidth 16)
        rc := { s.rc with id := s.rc.id + BitVec.ofNat 32 bad.length } }
      { rD := some (((be p).setWidth 16).setWidth 32) })

/-- R137: ADC_SET_CHECKSUM_MODE: every frame in the old mode, the local mode switched only after the verified write. -/
def Obligations.AdcSetChecksumModeCompletes : Prop :=
  ∀ (s : State) (m : CkMode) (p : List Byte) (as rest : List Answer), s.nss = .high →
    let fs : List Frame := updateFrames s.ckmode s.cfg.tables.regs.ifMode p (withCrcEn s.cfg.tables.regs m)
    converses s.toBlock fs as rest →
    exec (.adcSetChecksumMode m) s = .next (completed s { afterFrames s.toBlock fs as rest with ckmode := m } {})

/-- R138, R97: ADC_SETUP_CHANNEL: the three updates and nothing else. -/
def Obligations.AdcSetupChannelCompletes : Prop :=
  ∀ (s : State) (i : Ch) (inPos inNeg : BitVec 5) (p1 p2 p3 : List Byte) (as rest : List Answer),
    s.nss = .high → inPos ∈ s.cfg.tables.regs.selectors → inNeg ∈ s.cfg.tables.regs.selectors →
    let fs : List Frame := setupFrames s.cfg.tables s.ckmode i s.cfg.setupOdr inPos inNeg p1 p2 p3
    converses s.toBlock fs as rest →
    exec (.adcSetupChannel i inPos inNeg) s = .next (completed s (afterFrames s.toBlock fs as rest) {})

/-- R139: ADC_CALIBRATE_OFFSET: system offset calibration, the ready wait, continuous conversion. -/
def Obligations.AdcCalibrateOffsetCompletes : Prop :=
  ∀ (s : State) (p q : List Byte) (waits : List (List Byte)) (st : List Byte) (as rest : List Answer),
    let t := s.cfg.tables.regs
    s.nss = .high → mayRetry s.toBlock waits.length → (∀ w ∈ waits, isReady t w = false) → isReady t st = true →
    converses s.toBlock (calibrateFrames t s.ckmode p q waits st) as rest →
    exec .adcCalibrateOffset s = .next (completed s (afterFrames s.toBlock (calibrateFrames t s.ckmode p q waits st) as rest) {})

/-- R140: ADC_GET_CALIBRATION: three reads, captured while none, reported always. -/
def Obligations.AdcGetCalibrationCompletes : Prop :=
  ∀ (s : State) (i : Ch) (o g su : List Byte) (as rest : List Answer), s.nss = .high →
    let t := s.cfg.tables.regs
    converses s.toBlock (captureFrames t s.ckmode i o g su) as rest →
    exec (.adcGetCalibration i) s = .next (completed s
      { afterFrames s.toBlock (captureFrames t s.ckmode i o g su) as rest with
        ch := s.ch.set i (captured (s.ch.get i) (calRecord t o g su)) }
      { rD := some (((be o).setWidth 24).setWidth 32)
        rM := some ((((be g).setWidth 24).setWidth 32) |||
          (if fieldOf t.biUnipolar (be su) = 1 then 0x01000000#32 else 0#32)) })

/-- R142: ADC_SET_POSTFILTER: enabling writes ENHFILTEN and the rate code, disabling keeps the code. -/
def Obligations.AdcSetPostfilterCompletes : Prop :=
  ∀ (s : State) (i : Ch) (p : List Byte) (as rest : List Answer), s.nss = .high →
    let t := s.cfg.tables.regs
    let a : RegAddr := t.filtCon + chNumber i
    (∀ c : BitVec 3, c ∈ s.cfg.tables.postfilters.map (·.1) →
      let f := withFields [(t.enhFiltEn, 1), (t.enhFilt, c.toNat)]
      converses s.toBlock (updateFrames s.ckmode a p f) as rest →
      exec (.adcSetPostfilter i (some c)) s = .next (completed s (afterFrames s.toBlock (updateFrames s.ckmode a p f) as rest) {})) ∧
    (converses s.toBlock (updateFrames s.ckmode a p (withFields [(t.enhFiltEn, 0)])) as rest →
      exec (.adcSetPostfilter i none) s = .next (completed s
        (afterFrames s.toBlock (updateFrames s.ckmode a p (withFields [(t.enhFiltEn, 0)])) as rest) {}))

/-- R143: a NaN rate has no closest filter; for any other the reported one's error is not above any other's, and below every
earlier one's, so the first of the table wins a tie; a block whose table is empty reports none (the spec's has four filters, R98; the
table is a parameter: log 3). -/
def Obligations.PostfilterClosestIsNearest : Prop :=
  ∀ s : State, (∀ e ∈ s.cfg.tables.postfilters, F64.isFinite e.2 = true) →
    (F64.isNaN s.opA = true ∨ s.cfg.tables.postfilters = [] →
      exec .adcPostfilterClosest s = .next (completed s s.toBlock {})) ∧
    (F64.isNaN s.opA = false → s.cfg.tables.postfilters ≠ [] →
      let err (e : BitVec 3 × F64) : F64 := F64.abs (F64.sub e.2 s.opA)
      ∃ (earlier later : List (BitVec 3 × F64)) (best : BitVec 3 × F64),
        s.cfg.tables.postfilters = earlier ++ best :: later ∧
        exec .adcPostfilterClosest s = .next (completed s s.toBlock { rD := some (best.1.setWidth 32) }) ∧
        (∀ e ∈ earlier, F64.lt (err best) (err e) = true) ∧ (∀ e ∈ later, F64.lt (err e) (err best) = false))

/-- R147, R24, R222: ADC_INIT. Against a fault-free ADC: its frames in order, then phase RUN, the initial checksum mode, the ID stored,
and the calibrations captured while none. When the first transfer fails: Transport, in phase RESET (the event of the failed
transfer: log 14). And whatever the agents answer: the phase names the step ADC_INIT is in, the steps before it have had their
effects and the later ones have not; it ends well exactly in phase RUN, and in another phase with an error of that step. A command
in progress is never in phase RUN (where a loop is cut is the model's choice, log 5). -/
def Obligations.AdcInitCompletes : Prop :=
  (∀ (s : State) (r : AdcContents) (as rest : List Answer),
    s.nss = .high → r.plausible s.cfg = true → mayRetry s.toBlock r.waits.length →
    converses s.toBlock (initFrames s.cfg r) as rest →
    exec .adcInit s = .next (completed s (afterInit s.toBlock r as rest) { rD := some (((be r.id).setWidth 16).setWidth 32) })) ∧
  (∀ (s : State) (a : Answer) (rest : List Answer), s.nss = .high → s.script = a :: rest → a.fails = true →
    exec .adcInit s = .next (failed s { afterResetFail s.toBlock rest with phase := .reset } 1#8 0#32)) ∧
  (∀ s t : State, exec .adcInit s = .next t →
    initReached s.toBlock t.toBlock ∧
    (t.running.isSome = true → t.phase ≠ .run) ∧
    (t.running = none →
      (t.phase = .run → t.rStatus = 0#8 ∧ t.rD = t.adcId.map (·.setWidth 32)) ∧
      (t.phase ≠ .run → endedWith t (initErrors t.phase))))

/-- R129, R131, R57 for the bare register frames (that they can be run by themselves, and their operands, are the model's
choice, log 8): a read frame reports its value or, with a wrong checksum, none; a write frame sends opD; a register the frame may
not reach, and an opD wider than the register, end with IllegalCommand(address) and no other effect. -/
def Obligations.WireRegisterFramesComplete : Prop :=
  ∀ (s : State) (a : RegAddr) (p : List Byte) (c : Byte) (as rest : List Answer), s.nss = .high →
    (s.cfg.tables.regs.known a = true → converses s.toBlock [.read s.ckmode a p] as rest →
      exec (.spiReadCmd a) s =
        .next (completed s (afterFrames s.toBlock [.read s.ckmode a p] as rest) { rD := some (be p) })) ∧
    (s.cfg.tables.regs.known a = true → converses s.toBlock [.corrupt s.ckmode a p c] as rest →
      exec (.spiReadCmd a) s = .next (completed s (afterFrames s.toBlock [.corrupt s.ckmode a p c] as rest) {})) ∧
    (s.cfg.tables.regs.writable a = true → s.opD.toNat < 2 ^ (8 * s.cfg.tables.regs.width a) →
      converses s.toBlock [.write s.ckmode a (bytesBe (s.cfg.tables.regs.width a) s.opD)] as rest →
      exec (.spiWriteCmd a) s = .next (completed s
        (afterFrames s.toBlock [.write s.ckmode a (bytesBe (s.cfg.tables.regs.width a) s.opD)] as rest) {})) ∧
    (s.cfg.tables.regs.known a = false → exec (.spiReadCmd a) s = .next (failed s s.toBlock 2#8 (a.setWidth 32))) ∧
    (s.cfg.tables.regs.writable a = false → exec (.spiWriteCmd a) s = .next (failed s s.toBlock 2#8 (a.setWidth 32))) ∧
    (s.cfg.tables.regs.writable a = true → 2 ^ (8 * s.cfg.tables.regs.width a) ≤ s.opD.toNat →
      exec (.spiWriteCmd a) s = .next (failed s s.toBlock 2#8 (a.setWidth 32)))

/-! The DAC. -/

/-- R153: DAC_INIT drives the sync pin to its idle level. -/
def Obligations.DacInitCompletes : Prop :=
  ∀ (s : State) (ch : Ch), exec (.dacInit ch) s = .next (completed s (afterDacInit s.toBlock ch) {})

/-- R155, R156, R216: a code sent to a DAC: the sync strobe by its idle polarity around the three bytes, then dac_code; when the
transfer fails, Transport with the DAC's port, the sync pin idle also before any DAC_INIT (log 9), the failed transfer an event of
its own (log 14), and dac_code unchanged. That a DAC word can be run by itself, on the channel the model's own field names, is the
model's choice (log 8). -/
def Obligations.DacCodeCommandsComplete : Prop :=
  ∀ (s : State) (ch : Ch) (v : DacCode) (a : Answer) (rest : List Answer), s.script = a :: rest →
    (s.opD.toNat ≤ 0x3FFFF →
      (a.fails = false →
        exec (.dacSetCode ch) s = .next (completed s (afterDac s.toBlock ch (s.opD.setWidth 18) a rest) {})) ∧
      (a.fails = true →
        exec (.dacSetCode ch) s = .next (failed s (afterDacFail s.toBlock ch (s.opD.setWidth 18) rest) 1#8
          (match ch with | .c0 => 1#32 | .c1 => 2#32)))) ∧
    (a.fails = false → exec (.dacWord v) s = .next (completed s (afterDac s.toBlock s.wireCh v a rest) {})) ∧
    (a.fails = true → exec (.dacWord v) s = .next (failed s (afterDacFail s.toBlock s.wireCh v rest) 1#8
      (match s.wireCh with | .c0 => 1#32 | .c1 => 2#32)))

/-- R218, R155: DAC_SET_CODE raises DacRange for a code above 0x3FFFF, before any pin event. -/
def Obligations.DacSetCodeRange : Prop :=
  (∀ (s : State) (ch : Ch), 0x3FFFF < s.opD.toNat →
    exec (.dacSetCode ch) s = .next (failed s s.toBlock 3#8 s.opD)) ∧
  (∀ (i : Instr) (s t : State), (∀ ch, i ≠ .dacSetCode ch) → exec i s = .next t → t.running = none → t.rStatus ≠ 3#8)

/-- R154, R159 (a): the packed bytes unpack to the code, and bits 23:20 and 1:0 of the word are 0. -/
def Obligations.DacPackingRecovers : Prop :=
  ∀ v : DacCode, dacPack v = [(v >>> 14).setWidth 8, (v >>> 6).setWidth 8, (v <<< 2).setWidth 8] ∧
    ∀ b0 b1 b2 : Byte, dacPack v = [b0, b1, b2] →
      (b0.setWidth 18 <<< 14) ||| (b1.setWidth 18 <<< 6) ||| (b2 >>> 2).setWidth 18 = v ∧
      b0.extractLsb' 4 4 = 0#4 ∧ b2.extractLsb' 0 2 = 0#2

/-- R157, R156, R216: DAC_SET_VOLTS at the nominal 5.0 V full scale; when the transfer fails, Transport with dac_code unchanged: the
failed frame leaves the sync pin idle also before any DAC_INIT (log 9) and its transfer is an event of its own (log 14). -/
def Obligations.DacSetVoltsCompletes : Prop :=
  ∀ (s : State) (ch : Ch) (a : Answer) (rest : List Answer), s.script = a :: rest →
    let v := toCode (F64.div (F64.mul s.opA (F64.ofNat 262143)) (F64.ofNat 5))
    (a.fails = false →
      exec (.dacSetVolts ch) s = .next (completed s (afterDac s.toBlock ch v a rest) { rD := some (v.setWidth 32) })) ∧
    (a.fails = true →
      exec (.dacSetVolts ch) s = .next (failed s (afterDacFail s.toBlock ch v rest) 1#8
        (match ch with | .c0 => 1#32 | .c1 => 2#32)))

/-- R158: NaN and everything not above 0 give code 0, everything from DAC_MAX up gives DAC_MAX, and any other value gives the code
it lies at or above by less than one. -/
def Obligations.ToCodeSaturatesAndTruncates : Prop :=
  ∀ x : F64,
    (F64.isNaN x = true → toCode x = 0#18) ∧
    (F64.le x zeroF = true → toCode x = 0#18) ∧
    (F64.le (F64.ofNat 0x3FFFF) x = true → toCode x = 0x3FFFF#18) ∧
    (F64.lt zeroF x = true → F64.lt x (F64.ofNat 0x3FFFF) = true →
      F64.le (F64.ofNat (toCode x).toNat) x = true ∧ F64.lt x (F64.ofNat ((toCode x).toNat + 1)) = true)

/-! The converters and controllers. -/

/-- R160, R161, R162: the Steinhart-Hart commands. -/
def Obligations.SteinhartHartCommandsComplete : Prop :=
  ∀ (s : State) (ch : Ch) (f : ShParam),
    exec (.shGetTemperature ch) s = .next (completed s s.toBlock { rA := kelvinOf (s.ch.get ch).sh s.opA }) ∧
    exec (.shSetParam ch f) s = .next (completed s
      { s.toBlock with
        ch := s.ch.set ch { s.ch.get ch with
          sh := match f with
            | .t0 => { (s.ch.get ch).sh with t0 := s.opA }
            | .r0 => { (s.ch.get ch).sh with r0 := s.opA }
            | .b => { (s.ch.get ch).sh with b := s.opA } } } {})

/-- R166 to R169: one PID step. -/
def Obligations.PidUpdateCompletes : Prop :=
  ∀ (s : State) (ch : Ch),
    let p := (s.ch.get ch).pid
    let error := F64.sub p.target s.opA
    let advanced := match p.lastOutput with
      | some lo => if F64.lt p.outputMin lo = true ∧ F64.lt lo p.outputMax = true then
          F64.add p.integral (F64.mul error s.opB) else p.integral
      | none => p.integral
    let integral := F64.clamp advanced p.integralMin p.integralMax
    let deriv := match p.lastInput with
      | none => zeroF
      | some li => F64.div (F64.mul p.kd (F64.sub s.opA li)) s.opB
    let out := F64.clamp (F64.add (F64.add (F64.mul p.kp error) (F64.mul integral p.ki)) deriv) p.outputMin p.outputMax
    exec (.pidUpdate ch) s = .next (completed s
      { s.toBlock with
        ch := s.ch.set ch { s.ch.get ch with
          pid := { p with integral := integral, lastInput := some s.opA, lastOutput := some out } } }
      { rA := some out })

/-- R171 to R173: a gain change rescales the accumulator, or resets it for a new ki of zero; a parameter write changes that
parameter only. -/
def Obligations.PidParameterCommandsComplete : Prop :=
  ∀ (s : State) (ch : Ch) (f : PidParam),
    let p := (s.ch.get ch).pid
    exec (.pidUpdateKi ch) s = .next (completed s
      { s.toBlock with
        ch := s.ch.set ch { s.ch.get ch with
          pid := { p with
            ki := s.opA
            integral := if F64.eq s.opA zeroF = true then zeroF
              else F64.mul p.integral (F64.div p.ki s.opA) } } } {}) ∧
    exec (.pidSetParam ch f) s = .next (completed s
      { s.toBlock with
        ch := s.ch.set ch { s.ch.get ch with
          pid := match f with
            | .target => { p with target := s.opA }
            | .kp => { p with kp := s.opA }
            | .kd => { p with kd := s.opA }
            | .outputMin => { p with outputMin := s.opA }
            | .outputMax => { p with outputMax := s.opA }
            | .integralMin => { p with integralMin := s.opA }
            | .integralMax => { p with integralMax := s.opA } } } {})

/-- R170: with ordered bounds every output that is not NaN lies in the output bounds and is the stored last output, the accumulator
lies in its bounds unless it is NaN, and a step whose previous output was not strictly inside the bounds does not advance it. -/
def Obligations.PidOutputBounded : Prop :=
  ∀ (s t : State) (ch : Ch),
    let p := (s.ch.get ch).pid
    let q := (t.ch.get ch).pid
    F64.le p.outputMin p.outputMax = true → F64.le p.integralMin p.integralMax = true →
    exec (.pidUpdate ch) s = .next t →
    (∃ out : F64, t.rA = some out ∧ q.lastOutput = some out ∧
      (F64.isNaN out = true ∨ (F64.le p.outputMin out = true ∧ F64.le out p.outputMax = true))) ∧
    (F64.isNaN q.integral = true ∨ (F64.le p.integralMin q.integral = true ∧ F64.le q.integral p.integralMax = true)) ∧
    ((∀ lo, p.lastOutput = some lo → ¬ (F64.lt p.outputMin lo = true ∧ F64.lt lo p.outputMax = true)) →
      F64.le p.integralMin p.integral = true → F64.le p.integral p.integralMax = true → q.integral = p.integral)

/-- R177, R178, R180 to R182: one step of a channel's filter, its coefficients and its target. -/
def Obligations.ChannelFilterCommandsComplete : Prop :=
  ∀ (s : State) (ch : Ch) (c : Coeff),
    let f := (s.ch.get ch).iir
    let x := F64.sub f.target s.opA
    let y := F64.add (F64.add (F64.add (F64.add (F64.mul x f.ba.e0) (F64.mul f.xy.e0 f.ba.e1)) (F64.mul f.xy.e1 f.ba.e2))
      (F64.mul f.xy.e2 f.ba.e3)) (F64.mul f.xy.e3 f.ba.e4)
    exec (.iirTick ch) s = .next (completed s
      { s.toBlock with ch := s.ch.set ch { s.ch.get ch with iir := { f with xy := ⟨x, f.xy.e0, y, f.xy.e2, f.xy.e3⟩ } } }
      { rA := some y }) ∧
    exec (.iirSetCoeff ch c) s = .next (completed s
      { s.toBlock with
        ch := s.ch.set ch { s.ch.get ch with
          iir := { f with ba := match c with
            | .b0 => { f.ba with e0 := s.opA }
            | .b1 => { f.ba with e1 := s.opA }
            | .b2 => { f.ba with e2 := s.opA }
            | .a1 => { f.ba with e3 := s.opA }
            | .a2 => { f.ba with e4 := s.opA } } } } {}) ∧
    exec (.iirSetTarget ch) s = .next (completed s
      { s.toBlock with ch := s.ch.set ch { s.ch.get ch with iir := { f with target := s.opA } } } {})

/-- R183 to R185: every slot ticks against the outputs, and the channels' temperatures, of before the tick; a slot with an absent
source holds. -/
def Obligations.MatrixTickCompletes : Prop :=
  ∀ s : State, ∃ m : PerSlot MtxSlot,
    exec .mtxTick s = .next (completed s { s.toBlock with mtx := m } {}) ∧
    ∀ k : Slot,
      let old := s.mtx.get k
      let src (sel : Source) (c : F64) : Option F64 := match sel with
        | .const => some c
        | .temp ch => celsiusOf s.cfg (s.ch.get ch)
        | .filter j => some (s.mtx.get j).out
      match src old.inSel old.inConst, src old.tgtSel old.tgtConst with
      | some input, some target =>
        let x := F64.sub target input
        let y := F64.add (F64.add (F64.add (F64.add (F64.mul x old.ba.e0) (F64.mul old.xy.e0 old.ba.e1))
          (F64.mul old.xy.e1 old.ba.e2)) (F64.mul old.xy.e2 old.ba.e3)) (F64.mul old.xy.e3 old.ba.e4)
        m.get k = { old with xy := ⟨x, old.xy.e0, y, old.xy.e2, old.xy.e3⟩, out := y }
      | _, _ => m.get k = old

/-- R186, R187: the matrix's coefficients and sources; every other slot is unchanged. -/
def Obligations.MatrixSetCommandsComplete : Prop :=
  ∀ (s : State) (k : Slot) (c : Coeff) (r : Role) (sel : Source),
    let m := s.mtx.get k
    exec (.mtxSetCoeff k c) s = .next (completed s
      { s.toBlock with
        mtx := s.mtx.set k { m with ba := match c with
          | .b0 => { m.ba with e0 := s.opA }
          | .b1 => { m.ba with e1 := s.opA }
          | .b2 => { m.ba with e2 := s.opA }
          | .a1 => { m.ba with e3 := s.opA }
          | .a2 => { m.ba with e4 := s.opA } } } {}) ∧
    exec (.mtxSetSource k r sel) s = .next (completed s
      { s.toBlock with
        mtx := s.mtx.set k (match r with
          | .input => { m with inSel := sel, inConst := s.opA }
          | .target => { m with tgtSel := sel, tgtConst := s.opA }) } {})

/-! The channels. -/

/-- R190, R191, R220: CH_CONVERT_DATA; without a calibration ConversionUnavailable with the channel. -/
def Obligations.ConvertDataCompletes : Prop :=
  ∀ (s : State) (ch : Ch), s.opD.toNat ≤ 0xFFFFFF →
    (∀ k : AdcCal, (s.ch.get ch).cal = some k →
      exec (.chConvertData ch) s =
        .next (completed s s.toBlock { rA := some (voltsOf s.cfg k (s.opD.setWidth 24)) })) ∧
    ((s.ch.get ch).cal = none →
      exec (.chConvertData ch) s = .next (failed s s.toBlock 4#8 (match ch with | .c0 => 0#32 | .c1 => 1#32)))

/-- R195: CH_SAMPLE: the interval from the wrapped difference of the timestamps, the time, and the code unless it is the
sentinel. -/
def Obligations.SampleCompletes : Prop :=
  ∀ (s : State) (ch : Ch), s.opD.toNat ≤ 0xFFFFFF →
    exec (.chSample ch) s = .next (completed s
      { s.toBlock with ch := s.ch.set ch (sampledRecord s.cfg (s.ch.get ch) (s.opD.setWidth 24) s.opM) } {})

/-- R196, R197, R199: the temperature and the current of a channel, read without any effect. -/
def Obligations.TemperatureAndCurrentReadsComplete : Prop :=
  ∀ (s : State) (ch : Ch),
    exec (.chGetTemperature ch) s = .next (completed s s.toBlock { rA := celsiusOf s.cfg (s.ch.get ch) }) ∧
    exec (.chGetI ch) s = .next (completed s s.toBlock { rA := some (currentOf (s.ch.get ch)) })

/-- R211: CH_READ_FIELD reports every field of the table and changes nothing; the ids of the three lists are all the legal
ones. The last clause is about terms no word decodes to: that exec ends them with IllegalCommand(CMD) is the model's choice
(log 15). -/
def Obligations.FieldReadsComplete : Prop :=
  ∀ s : State,
    (∀ (ch : Ch) (e : BitVec 8 × Results), e ∈ channelFields s.toBlock ch →
      exec (.chReadField (chCode ch) e.1) s = .next (completed s s.toBlock e.2)) ∧
    (∀ (k : Slot) (e : BitVec 8 × Results), e ∈ matrixFields (s.mtx.get k) →
      exec (.chReadField (slotCode k) e.1) s = .next (completed s s.toBlock e.2)) ∧
    (∀ e : BitVec 8 × Results, e ∈ blockFields s.toBlock →
      exec (.chReadField 0#3 e.1) s = .next (completed s s.toBlock e.2)) ∧
    (∀ (idx : BitVec 3) (id : BitVec 8),
      (∀ ch : Ch, idx = chCode ch → id ∉ (channelFields s.toBlock ch).map (·.1)) →
      id ∉ (matrixFields s.mtx.m0).map (·.1) →
      (idx = 0#3 → id ∉ (blockFields s.toBlock).map (·.1)) →
      exec (.chReadField idx id) s = .next (failed s s.toBlock 2#8 s.cmd))

/-- R198, R200, R222: a manual setting disengages every controller, then sends the code; when the transfer fails the
disengagement stays and dac_code is unchanged; the failed frame leaves the sync pin idle also before any DAC_INIT (log 9) and
its transfer is an event of its own (log 14). -/
def Obligations.ManualSetCommandsComplete : Prop :=
  ∀ (s : State) (ch : Ch) (a : Answer) (rest : List Answer), s.script = a :: rest →
    let c := s.ch.get ch
    let b : Block := { s.toBlock with ch := s.ch.set ch { c with pidEngaged := false, iirEngaged := false, mtxSel := none } }
    let vi := codeOfCurrent c (centerOf c) s.opA
    let vv := toCode (F64.div (F64.mul s.opA (F64.ofNat 262143)) c.dacFs)
    let port : BitVec 32 := match ch with | .c0 => 1#32 | .c1 => 2#32
    (a.fails = false →
      exec (.chSetI ch) s = .next (completed s (afterDac b ch vi a rest) { rD := some (vi.setWidth 32) }) ∧
      exec (.chSetDacVolts ch) s = .next (completed s (afterDac b ch vv a rest) { rD := some (vv.setWidth 32) })) ∧
    (a.fails = true →
      exec (.chSetI ch) s = .next (failed s (afterDacFail b ch vi rest) 1#8 port) ∧
      exec (.chSetDacVolts ch) s = .next (failed s (afterDacFail b ch vv rest) 1#8 port))

/-- R201: a new center policy; with no controller engaged the code is recomputed to keep the current, and sent; when the transfer
fails the new center stays: the failed frame leaves the sync pin idle also before any DAC_INIT (log 9) and its transfer is an event
of its own (log 14). -/
def Obligations.SetCenterCompletes : Prop :=
  ∀ (s : State) (ch : Ch) (sel : CenterSel),
    let c := s.ch.get ch
    let c' : Channel := { c with center := match sel with | .vref => .vref | .override => .override s.opA }
    let b : Block := { s.toBlock with ch := s.ch.set ch c' }
    let v := codeOfCurrent c' (centerOf c') (currentOf c)
    (¬ manual c → exec (.chSetCenter ch sel) s = .next (completed s b {})) ∧
    (manual c → ∀ (a : Answer) (rest : List Answer), s.script = a :: rest →
      (a.fails = false → exec (.chSetCenter ch sel) s = .next (completed s (afterDac b ch v a rest) {})) ∧
      (a.fails = true → exec (.chSetCenter ch sel) s = .next (failed s (afterDacFail b ch v rest) 1#8
        (match ch with | .c0 => 1#32 | .c1 => 2#32))))

/-- R202 to R206: the engagement flags, the matrix selection, the driver enable and the limits: each writes its own field; only the
driver enable drives a pin. -/
def Obligations.ChannelSettingCommandsComplete : Prop :=
  ∀ (s : State) (ch : Ch) (f : Bool) (k : Option Slot) (l : Limit),
    let c := s.ch.get ch
    exec (.chSetPidEngaged ch f) s =
      .next (completed s { s.toBlock with ch := s.ch.set ch { c with pidEngaged := f } } {}) ∧
    exec (.chSetIirEngaged ch f) s =
      .next (completed s { s.toBlock with ch := s.ch.set ch { c with iirEngaged := f } } {}) ∧
    exec (.chSetMtxSel ch k) s = .next (completed s { s.toBlock with ch := s.ch.set ch { c with mtxSel := k } } {}) ∧
    exec (.chSetTecEn ch f) s = .next (completed s (afterTec s.toBlock ch f) {}) ∧
    exec (.chSetPwmLimit ch l) s = .next (completed s
      { s.toBlock with
        ch := s.ch.set ch { c with
          pwm := match l with
            | .maxIPos => { c.pwm with maxIPos := s.opA }
            | .maxINeg => { c.pwm with maxINeg := s.opA }
            | .maxV => { c.pwm with maxV := s.opA } } } {})

/-- R208, R209, R222: CH_CALIBRATE_DAC. Against a DAC that takes every code, whatever bytes it sends back (R66, R156; an event holds
them cut or padded to three: log 1), and a sampler whose voltage for each code settles within the retry budget: the codes visited,
the DAC back at 0, and the outcome (CAL_START_STEP is a power of two: log 4). And whatever the agents answer: a calibration that ends
with an error, or is in progress (log 5), leaves both calibration results unchanged, with cal_failed cleared. -/
def Obligations.CalibrateDacCompletes : Prop :=
  (∀ (s : State) (ch : Ch) (w : Sampler) (r : CalAnswers) (rest : List Answer), calibrates s.toBlock w r rest →
    exec (.chCalibrateDac ch) s = .next (completed s (afterCalibrate s.toBlock ch w r rest)
      { rD := (calBest s.cfg w).map (BitVec.ofNat 32) })) ∧
  (∀ (s t : State) (ch : Ch), exec (.chCalibrateDac ch) s = .next t → t.running.isSome = true ∨ t.rStatus ≠ 0#8 →
    (t.ch.get ch).vrefMeas = (s.ch.get ch).vrefMeas ∧ (t.ch.get ch).dacFs = (s.ch.get ch).dacFs ∧
    (t.ch.get ch).calFailed = false ∧
    (t.running = none → endedWith t [(1#8, match ch with | .c0 => 1#32 | .c1 => 2#32), (1#8, 3#32), (5#8, 5#32)]))

/-- R208: whatever the first step size (a power of two: log 4), when no code above a refused one is accepted, as where the feedback
never falls as the code rises, CH_CALIBRATE_DAC reports the largest code whose feedback is not above the target, and none, with
cal_failed set, when even code 0 is above it. -/
def Obligations.CalibrationSearchFindsLargest : Prop :=
  ∀ (s : State) (ch : Ch) (w : Sampler) (r : CalAnswers) (rest : List Answer), calibrates s.toBlock w r rest →
    let ok (v : Nat) : Prop := F64.le zeroF (F64.sub (calTargetOf s.cfg w) (w.fb v)) = true
    (∀ v v' : Nat, v ≤ v' → v' ≤ 0x3FFFF → ok v' → ok v) →
    ∃ t : State, exec (.chCalibrateDac ch) s = .next t ∧ t.running = none ∧ t.rStatus = 0#8 ∧
      (¬ ok 0 → t.rD = none ∧ (t.ch.get ch).calFailed = true) ∧
      (ok 0 → ∃ b : Nat, t.rD = some (BitVec.ofNat 32 b) ∧ b ≤ 0x3FFFF ∧ ok b ∧ ∀ v : Nat, v ≤ 0x3FFFF → ok v → v ≤ b)

/-! The orchestrator. -/

/-- R213, R207: POLL_ADC without a control output: nothing ready; a result of an ADC channel that is no control channel; a sample in
manual mode; a sample with an absent temperature, which powers the driver down; an engaged PID with no interval above 0. -/
def Obligations.PollAdcWithoutOutput : Prop :=
  ∀ (s : State) (st p : List Byte) (ch : Ch) (as rest : List Answer), s.nss = .high →
    let t := s.cfg.tables.regs
    (isReady t st = false → converses s.toBlock [.read s.ckmode t.status st] as rest →
      exec .pollAdc s = .next (completed s (afterFrames s.toBlock [.read s.ckmode t.status st] as rest) {})) ∧
    (∀ fs : List Frame, fs = [.read s.ckmode t.status st, .read s.ckmode t.data p] →
      isReady t st = true → converses s.toBlock fs as rest →
      (1 < fieldOf t.channel (be st) → exec .pollAdc s = .next (completed s (afterFrames s.toBlock fs as rest) {})) ∧
      (fieldOf t.channel (be st) = (match ch with | .c0 => 0 | .c1 => 1) →
        let b := afterPoll s.toBlock fs ch ((be p).setWidth 24) as rest
        let c := b.ch.get ch
        let done : Results := { rD := some (match ch with | .c0 => 0#32 | .c1 => 1#32) }
        (manual c → exec .pollAdc s = .next (completed s b done)) ∧
        (¬ manual c → celsiusOf b.cfg c = none → exec .pollAdc s = .next (completed s (afterTec b ch false) done)) ∧
        (c.pidEngaged = true → c.iirEngaged = false → c.mtxSel = none →
          (∀ dt, c.adcInterval = some dt → F64.lt zeroF dt = false) →
          exec .pollAdc s = .next (completed s (if (celsiusOf b.cfg c).isSome then b else afterTec b ch false) done))))

/-- R213, R207, R222: POLL_ADC with a controller engaged: the matrix before the IIR before the PID; when the channel has a
temperature the controller's output becomes a code sent to the DAC and the driver is powered, otherwise the driver is powered down.
When the DAC's transfer fails, Transport of that DAC: the controller has stepped, dac_code and the driver are as they were (the sync
pin idle: log 9; the failed transfer an event of its own: log 14). -/
def Obligations.PollAdcDrivesOutput : Prop :=
  ∀ (s : State) (st p : List Byte) (ch : Ch) (as : List Answer) (a : Answer) (rest : List Answer),
    let t := s.cfg.tables.regs
    let fs : List Frame := [.read s.ckmode t.status st, .read s.ckmode t.data p]
    let b := afterPoll s.toBlock fs ch ((be p).setWidth 24) as (a :: rest)
    let c := b.ch.get ch
    let done : Results := { rD := some (match ch with | .c0 => 0#32 | .c1 => 1#32) }
    let drives (next : F64 → Block) (out : F64 → F64) : Prop :=
      exec .pollAdc s = .next
        (match celsiusOf b.cfg c with
          | none => completed s (afterTec b ch false) done
          | some temp =>
            if a.fails = true then failed s (afterDacFail (next temp) ch (codeOfCurrent c (centerOf c) (out temp)) rest) 1#8
              (match ch with | .c0 => 1#32 | .c1 => 2#32)
            else completed s (afterTec (afterDac (next temp) ch (codeOfCurrent c (centerOf c) (out temp)) a rest) ch true) done)
    s.nss = .high → isReady t st = true → fieldOf t.channel (be st) = (match ch with | .c0 => 0 | .c1 => 1) →
    converses s.toBlock fs as (a :: rest) →
    (∀ k : Slot, c.mtxSel = some k → drives (fun _ => b) (fun _ => (b.mtx.get k).out)) ∧
    (c.mtxSel = none → c.iirEngaged = true →
      drives (fun temp => { b with ch := b.ch.set ch { c with iir := c.iir.step temp } }) (fun temp => c.iir.output temp)) ∧
    (∀ dt : F64, c.mtxSel = none → c.iirEngaged = false → c.pidEngaged = true → c.adcInterval = some dt →
      F64.lt zeroF dt = true →
      drives (fun temp => { b with ch := b.ch.set ch { c with pid := c.pid.step temp dt } })
        (fun temp => c.pid.output temp dt))

/-- R214, R222: BLOCK_INIT. With fault-free agents: both drivers off, ADC_INIT, DAC_INIT and CH_CALIBRATE_DAC of both channels, in
this order; the DACs may send back any bytes (an event holds them cut or padded to three: log 1), the samplers settle within the
retry budget, CAL_START_STEP is a power of two (log 4). And whatever the agents answer: both drivers are off; before phase RUN
nothing after ADC_INIT has been done and an error is one of the step that S.phase names; in phase RUN ADC_INIT has had all its
effects, and an error is one of a calibration. -/
def Obligations.BlockInitCompletes : Prop :=
  (∀ (s : State) (r : AdcContents) (w0 w1 : Sampler) (r0 r1 : CalAnswers) (as rest : List Answer),
    s.nss = .high → r.plausible s.cfg = true → mayRetry s.toBlock r.waits.length →
    converses s.toBlock (initFrames s.cfg r) as (r0.all ++ (r1.all ++ rest)) →
    let b1 := afterInit (afterTec (afterTec s.toBlock .c0 false) .c1 false) r as (r0.all ++ (r1.all ++ rest))
    let b2 := afterDacInit (afterDacInit b1 .c0) .c1
    let b3 := afterCalibrate b2 .c0 w0 r0 (r1.all ++ rest)
    calibrates b2 w0 r0 (r1.all ++ rest) → calibrates b3 w1 r1 rest →
    exec .blockInit s = .next (completed s (afterCalibrate b3 .c1 w1 r1 rest)
      { rD := some (((be r.id).setWidth 16).setWidth 32) })) ∧
  (∀ s t : State, exec .blockInit s = .next t →
    initReached s.toBlock t.toBlock ∧
    (∀ ch : Ch, (t.ch.get ch).tecEn = false ∧
      (t.phase ≠ .run → (t.ch.get ch).dacCode = (s.ch.get ch).dacCode ∧ (t.ch.get ch).vrefMeas = (s.ch.get ch).vrefMeas ∧
        (t.ch.get ch).dacFs = (s.ch.get ch).dacFs ∧ (t.ch.get ch).calFailed = (s.ch.get ch).calFailed ∧
        t.sync.get ch = s.sync.get ch)) ∧
    (t.running = none →
      (t.phase ≠ .run → endedWith t (initErrors t.phase)) ∧
      (t.phase = .run → t.rStatus = 0#8 ∧ t.rD = t.adcId.map (·.setWidth 32) ∨
        endedWith t [(1#8, 1#32), (1#8, 2#32), (1#8, 3#32), (5#8, 5#32)])))

/-! Arithmetic. -/

/-- R13: a finite binary64 value taken apart and rounded again is itself, bit for bit: rounding does not change a
representable value. -/
def Obligations.RoundingKeepsFiniteValues : Prop :=
  ∀ x : F64, F64.isFinite x = true →
    ∃ (sgn : Bool) (m : Nat) (e : Int), F64.unpack x = .fin sgn m e ∧ F64.round sgn m e = x
end

