-- ==== Sys2Proof/Laws/State.lean ====
section
/-! SUPPORT. What each block update does to each field, and what reading a pair after writing it gives. -/

namespace Sys2Proof.Machine

/-! Reading after writing. -/

@[simp] theorem PerCh.get_set_same {α : Type} (p : PerCh α) (i : Ch) (v : α) : (p.set i v).get i = v := by cases i <;> rfl

theorem PerCh.get_set_other {α : Type} (p : PerCh α) (i j : Ch) (v : α) (h : j ≠ i) : (p.set i v).get j = p.get j := by
  cases i <;> cases j <;> first | rfl | exact absurd rfl h

theorem PerCh.get_set {α : Type} (p : PerCh α) (i j : Ch) (v : α) :
    (p.set i v).get j = if j = i then v else p.get j := by
  cases i <;> cases j <;> rfl

@[simp] theorem PerCh.set_get {α : Type} (p : PerCh α) (i : Ch) : p.set i (p.get i) = p := by cases i <;> rfl

@[simp] theorem PerCh.set_set {α : Type} (p : PerCh α) (i : Ch) (v w : α) : (p.set i v).set i w = p.set i w := by
  cases i <;> rfl

@[simp] theorem PerSlot.get_set_same {α : Type} (p : PerSlot α) (k : Slot) (v : α) : (p.set k v).get k = v := by cases k <;> rfl

theorem PerSlot.get_set_other {α : Type} (p : PerSlot α) (k j : Slot) (v : α) (h : j ≠ k) :
    (p.set k v).get j = p.get j := by
  cases k <;> cases j <;> first | rfl | exact absurd rfl h

@[simp] theorem PerSlot.get_map {α β : Type} (f : α → β) (p : PerSlot α) (k : Slot) : (p.map f).get k = f (p.get k) := by
  cases k <;> rfl

@[simp] theorem Vec5.get_set_same (v : Vec5) (i : Coeff) (x : F64) : (v.set i x).get i = x := by cases i <;> rfl

theorem Vec5.get_set_other (v : Vec5) (i j : Coeff) (x : F64) (h : j ≠ i) : (v.set i x).get j = v.get j := by
  cases i <;> cases j <;> first | rfl | exact absurd rfl h


/-! The phase. -/

@[simp] theorem Block.setPhase_cfg (b : Block) (p : Phase) : (b.setPhase p).cfg = b.cfg := rfl
@[simp] theorem Block.setPhase_phase (b : Block) (p : Phase) : (b.setPhase p).phase = p := rfl
@[simp] theorem Block.setPhase_ck (b : Block) (p : Phase) : (b.setPhase p).ck = b.ck := rfl
@[simp] theorem Block.setPhase_ckmode (b : Block) (p : Phase) : (b.setPhase p).ckmode = b.ckmode := rfl
@[simp] theorem Block.setPhase_adcId (b : Block) (p : Phase) : (b.setPhase p).adcId = b.adcId := rfl
@[simp] theorem Block.setPhase_rc (b : Block) (p : Phase) : (b.setPhase p).rc = b.rc := rfl
@[simp] theorem Block.setPhase_ch (b : Block) (p : Phase) : (b.setPhase p).ch = b.ch := rfl
@[simp] theorem Block.setPhase_mtx (b : Block) (p : Phase) : (b.setPhase p).mtx = b.mtx := rfl
@[simp] theorem Block.setPhase_nss (b : Block) (p : Phase) : (b.setPhase p).nss = b.nss := rfl
@[simp] theorem Block.setPhase_sync (b : Block) (p : Phase) : (b.setPhase p).sync = b.sync := rfl
@[simp] theorem Block.setPhase_cmd (b : Block) (p : Phase) : (b.setPhase p).cmd = b.cmd := rfl
@[simp] theorem Block.setPhase_opA (b : Block) (p : Phase) : (b.setPhase p).opA = b.opA := rfl
@[simp] theorem Block.setPhase_opB (b : Block) (p : Phase) : (b.setPhase p).opB = b.opB := rfl
@[simp] theorem Block.setPhase_opD (b : Block) (p : Phase) : (b.setPhase p).opD = b.opD := rfl
@[simp] theorem Block.setPhase_opM (b : Block) (p : Phase) : (b.setPhase p).opM = b.opM := rfl
@[simp] theorem Block.setPhase_rStatus (b : Block) (p : Phase) : (b.setPhase p).rStatus = b.rStatus := rfl
@[simp] theorem Block.setPhase_rD (b : Block) (p : Phase) : (b.setPhase p).rD = b.rD := rfl
@[simp] theorem Block.setPhase_rM (b : Block) (p : Phase) : (b.setPhase p).rM = b.rM := rfl
@[simp] theorem Block.setPhase_rA (b : Block) (p : Phase) : (b.setPhase p).rA = b.rA := rfl
@[simp] theorem Block.setPhase_hist (b : Block) (p : Phase) : (b.setPhase p).hist = b.hist := rfl
@[simp] theorem Block.setPhase_script (b : Block) (p : Phase) : (b.setPhase p).script = b.script := rfl
@[simp] theorem Block.setPhase_ports (b : Block) (p : Phase) : (b.setPhase p).ports = b.ports := rfl
@[simp] theorem Block.setPhase_grant (b : Block) (p : Phase) : (b.setPhase p).grant = b.grant := rfl
@[simp] theorem Block.setPhase_wireCh (b : Block) (p : Phase) : (b.setPhase p).wireCh = b.wireCh := rfl

/-! The checksum engine. -/

@[simp] theorem Block.setCk_cfg (b : Block) (c : Checksum) : (b.setCk c).cfg = b.cfg := rfl
@[simp] theorem Block.setCk_phase (b : Block) (c : Checksum) : (b.setCk c).phase = b.phase := rfl
@[simp] theorem Block.setCk_ck (b : Block) (c : Checksum) : (b.setCk c).ck = c := rfl
@[simp] theorem Block.setCk_ckmode (b : Block) (c : Checksum) : (b.setCk c).ckmode = b.ckmode := rfl
@[simp] theorem Block.setCk_adcId (b : Block) (c : Checksum) : (b.setCk c).adcId = b.adcId := rfl
@[simp] theorem Block.setCk_rc (b : Block) (c : Checksum) : (b.setCk c).rc = b.rc := rfl
@[simp] theorem Block.setCk_ch (b : Block) (c : Checksum) : (b.setCk c).ch = b.ch := rfl
@[simp] theorem Block.setCk_mtx (b : Block) (c : Checksum) : (b.setCk c).mtx = b.mtx := rfl
@[simp] theorem Block.setCk_nss (b : Block) (c : Checksum) : (b.setCk c).nss = b.nss := rfl
@[simp] theorem Block.setCk_sync (b : Block) (c : Checksum) : (b.setCk c).sync = b.sync := rfl
@[simp] theorem Block.setCk_cmd (b : Block) (c : Checksum) : (b.setCk c).cmd = b.cmd := rfl
@[simp] theorem Block.setCk_opA (b : Block) (c : Checksum) : (b.setCk c).opA = b.opA := rfl
@[simp] theorem Block.setCk_opB (b : Block) (c : Checksum) : (b.setCk c).opB = b.opB := rfl
@[simp] theorem Block.setCk_opD (b : Block) (c : Checksum) : (b.setCk c).opD = b.opD := rfl
@[simp] theorem Block.setCk_opM (b : Block) (c : Checksum) : (b.setCk c).opM = b.opM := rfl
@[simp] theorem Block.setCk_rStatus (b : Block) (c : Checksum) : (b.setCk c).rStatus = b.rStatus := rfl
@[simp] theorem Block.setCk_rD (b : Block) (c : Checksum) : (b.setCk c).rD = b.rD := rfl
@[simp] theorem Block.setCk_rM (b : Block) (c : Checksum) : (b.setCk c).rM = b.rM := rfl
@[simp] theorem Block.setCk_rA (b : Block) (c : Checksum) : (b.setCk c).rA = b.rA := rfl
@[simp] theorem Block.setCk_hist (b : Block) (c : Checksum) : (b.setCk c).hist = b.hist := rfl
@[simp] theorem Block.setCk_script (b : Block) (c : Checksum) : (b.setCk c).script = b.script := rfl
@[simp] theorem Block.setCk_ports (b : Block) (c : Checksum) : (b.setCk c).ports = b.ports := rfl
@[simp] theorem Block.setCk_grant (b : Block) (c : Checksum) : (b.setCk c).grant = b.grant := rfl
@[simp] theorem Block.setCk_wireCh (b : Block) (c : Checksum) : (b.setCk c).wireCh = b.wireCh := rfl

/-! The local checksum mode. -/

@[simp] theorem Block.setCkmode_cfg (b : Block) (m : CkMode) : (b.setCkmode m).cfg = b.cfg := rfl
@[simp] theorem Block.setCkmode_phase (b : Block) (m : CkMode) : (b.setCkmode m).phase = b.phase := rfl
@[simp] theorem Block.setCkmode_ck (b : Block) (m : CkMode) : (b.setCkmode m).ck = b.ck := rfl
@[simp] theorem Block.setCkmode_ckmode (b : Block) (m : CkMode) : (b.setCkmode m).ckmode = m := rfl
@[simp] theorem Block.setCkmode_adcId (b : Block) (m : CkMode) : (b.setCkmode m).adcId = b.adcId := rfl
@[simp] theorem Block.setCkmode_rc (b : Block) (m : CkMode) : (b.setCkmode m).rc = b.rc := rfl
@[simp] theorem Block.setCkmode_ch (b : Block) (m : CkMode) : (b.setCkmode m).ch = b.ch := rfl
@[simp] theorem Block.setCkmode_mtx (b : Block) (m : CkMode) : (b.setCkmode m).mtx = b.mtx := rfl
@[simp] theorem Block.setCkmode_nss (b : Block) (m : CkMode) : (b.setCkmode m).nss = b.nss := rfl
@[simp] theorem Block.setCkmode_sync (b : Block) (m : CkMode) : (b.setCkmode m).sync = b.sync := rfl
@[simp] theorem Block.setCkmode_cmd (b : Block) (m : CkMode) : (b.setCkmode m).cmd = b.cmd := rfl
@[simp] theorem Block.setCkmode_opA (b : Block) (m : CkMode) : (b.setCkmode m).opA = b.opA := rfl
@[simp] theorem Block.setCkmode_opB (b : Block) (m : CkMode) : (b.setCkmode m).opB = b.opB := rfl
@[simp] theorem Block.setCkmode_opD (b : Block) (m : CkMode) : (b.setCkmode m).opD = b.opD := rfl
@[simp] theorem Block.setCkmode_opM (b : Block) (m : CkMode) : (b.setCkmode m).opM = b.opM := rfl
@[simp] theorem Block.setCkmode_rStatus (b : Block) (m : CkMode) : (b.setCkmode m).rStatus = b.rStatus := rfl
@[simp] theorem Block.setCkmode_rD (b : Block) (m : CkMode) : (b.setCkmode m).rD = b.rD := rfl
@[simp] theorem Block.setCkmode_rM (b : Block) (m : CkMode) : (b.setCkmode m).rM = b.rM := rfl
@[simp] theorem Block.setCkmode_rA (b : Block) (m : CkMode) : (b.setCkmode m).rA = b.rA := rfl
@[simp] theorem Block.setCkmode_hist (b : Block) (m : CkMode) : (b.setCkmode m).hist = b.hist := rfl
@[simp] theorem Block.setCkmode_script (b : Block) (m : CkMode) : (b.setCkmode m).script = b.script := rfl
@[simp] theorem Block.setCkmode_ports (b : Block) (m : CkMode) : (b.setCkmode m).ports = b.ports := rfl
@[simp] theorem Block.setCkmode_grant (b : Block) (m : CkMode) : (b.setCkmode m).grant = b.grant := rfl
@[simp] theorem Block.setCkmode_wireCh (b : Block) (m : CkMode) : (b.setCkmode m).wireCh = b.wireCh := rfl

/-! The ADC's ID. -/

@[simp] theorem Block.setAdcId_cfg (b : Block) (v : BitVec 16) : (b.setAdcId v).cfg = b.cfg := rfl
@[simp] theorem Block.setAdcId_phase (b : Block) (v : BitVec 16) : (b.setAdcId v).phase = b.phase := rfl
@[simp] theorem Block.setAdcId_ck (b : Block) (v : BitVec 16) : (b.setAdcId v).ck = b.ck := rfl
@[simp] theorem Block.setAdcId_ckmode (b : Block) (v : BitVec 16) : (b.setAdcId v).ckmode = b.ckmode := rfl
@[simp] theorem Block.setAdcId_adcId (b : Block) (v : BitVec 16) : (b.setAdcId v).adcId = some v := rfl
@[simp] theorem Block.setAdcId_rc (b : Block) (v : BitVec 16) : (b.setAdcId v).rc = b.rc := rfl
@[simp] theorem Block.setAdcId_ch (b : Block) (v : BitVec 16) : (b.setAdcId v).ch = b.ch := rfl
@[simp] theorem Block.setAdcId_mtx (b : Block) (v : BitVec 16) : (b.setAdcId v).mtx = b.mtx := rfl
@[simp] theorem Block.setAdcId_nss (b : Block) (v : BitVec 16) : (b.setAdcId v).nss = b.nss := rfl
@[simp] theorem Block.setAdcId_sync (b : Block) (v : BitVec 16) : (b.setAdcId v).sync = b.sync := rfl
@[simp] theorem Block.setAdcId_cmd (b : Block) (v : BitVec 16) : (b.setAdcId v).cmd = b.cmd := rfl
@[simp] theorem Block.setAdcId_opA (b : Block) (v : BitVec 16) : (b.setAdcId v).opA = b.opA := rfl
@[simp] theorem Block.setAdcId_opB (b : Block) (v : BitVec 16) : (b.setAdcId v).opB = b.opB := rfl
@[simp] theorem Block.setAdcId_opD (b : Block) (v : BitVec 16) : (b.setAdcId v).opD = b.opD := rfl
@[simp] theorem Block.setAdcId_opM (b : Block) (v : BitVec 16) : (b.setAdcId v).opM = b.opM := rfl
@[simp] theorem Block.setAdcId_rStatus (b : Block) (v : BitVec 16) : (b.setAdcId v).rStatus = b.rStatus := rfl
@[simp] theorem Block.setAdcId_rD (b : Block) (v : BitVec 16) : (b.setAdcId v).rD = b.rD := rfl
@[simp] theorem Block.setAdcId_rM (b : Block) (v : BitVec 16) : (b.setAdcId v).rM = b.rM := rfl
@[simp] theorem Block.setAdcId_rA (b : Block) (v : BitVec 16) : (b.setAdcId v).rA = b.rA := rfl
@[simp] theorem Block.setAdcId_hist (b : Block) (v : BitVec 16) : (b.setAdcId v).hist = b.hist := rfl
@[simp] theorem Block.setAdcId_script (b : Block) (v : BitVec 16) : (b.setAdcId v).script = b.script := rfl
@[simp] theorem Block.setAdcId_ports (b : Block) (v : BitVec 16) : (b.setAdcId v).ports = b.ports := rfl
@[simp] theorem Block.setAdcId_grant (b : Block) (v : BitVec 16) : (b.setAdcId v).grant = b.grant := rfl
@[simp] theorem Block.setAdcId_wireCh (b : Block) (v : BitVec 16) : (b.setAdcId v).wireCh = b.wireCh := rfl

/-! The matrix. -/

@[simp] theorem Block.setMtx_cfg (b : Block) (m : PerSlot MtxSlot) : (b.setMtx m).cfg = b.cfg := rfl
@[simp] theorem Block.setMtx_phase (b : Block) (m : PerSlot MtxSlot) : (b.setMtx m).phase = b.phase := rfl
@[simp] theorem Block.setMtx_ck (b : Block) (m : PerSlot MtxSlot) : (b.setMtx m).ck = b.ck := rfl
@[simp] theorem Block.setMtx_ckmode (b : Block) (m : PerSlot MtxSlot) : (b.setMtx m).ckmode = b.ckmode := rfl
@[simp] theorem Block.setMtx_adcId (b : Block) (m : PerSlot MtxSlot) : (b.setMtx m).adcId = b.adcId := rfl
@[simp] theorem Block.setMtx_rc (b : Block) (m : PerSlot MtxSlot) : (b.setMtx m).rc = b.rc := rfl
@[simp] theorem Block.setMtx_ch (b : Block) (m : PerSlot MtxSlot) : (b.setMtx m).ch = b.ch := rfl
@[simp] theorem Block.setMtx_mtx (b : Block) (m : PerSlot MtxSlot) : (b.setMtx m).mtx = m := rfl
@[simp] theorem Block.setMtx_nss (b : Block) (m : PerSlot MtxSlot) : (b.setMtx m).nss = b.nss := rfl
@[simp] theorem Block.setMtx_sync (b : Block) (m : PerSlot MtxSlot) : (b.setMtx m).sync = b.sync := rfl
@[simp] theorem Block.setMtx_cmd (b : Block) (m : PerSlot MtxSlot) : (b.setMtx m).cmd = b.cmd := rfl
@[simp] theorem Block.setMtx_opA (b : Block) (m : PerSlot MtxSlot) : (b.setMtx m).opA = b.opA := rfl
@[simp] theorem Block.setMtx_opB (b : Block) (m : PerSlot MtxSlot) : (b.setMtx m).opB = b.opB := rfl
@[simp] theorem Block.setMtx_opD (b : Block) (m : PerSlot MtxSlot) : (b.setMtx m).opD = b.opD := rfl
@[simp] theorem Block.setMtx_opM (b : Block) (m : PerSlot MtxSlot) : (b.setMtx m).opM = b.opM := rfl
@[simp] theorem Block.setMtx_rStatus (b : Block) (m : PerSlot MtxSlot) : (b.setMtx m).rStatus = b.rStatus := rfl
@[simp] theorem Block.setMtx_rD (b : Block) (m : PerSlot MtxSlot) : (b.setMtx m).rD = b.rD := rfl
@[simp] theorem Block.setMtx_rM (b : Block) (m : PerSlot MtxSlot) : (b.setMtx m).rM = b.rM := rfl
@[simp] theorem Block.setMtx_rA (b : Block) (m : PerSlot MtxSlot) : (b.setMtx m).rA = b.rA := rfl
@[simp] theorem Block.setMtx_hist (b : Block) (m : PerSlot MtxSlot) : (b.setMtx m).hist = b.hist := rfl
@[simp] theorem Block.setMtx_script (b : Block) (m : PerSlot MtxSlot) : (b.setMtx m).script = b.script := rfl
@[simp] theorem Block.setMtx_ports (b : Block) (m : PerSlot MtxSlot) : (b.setMtx m).ports = b.ports := rfl
@[simp] theorem Block.setMtx_grant (b : Block) (m : PerSlot MtxSlot) : (b.setMtx m).grant = b.grant := rfl
@[simp] theorem Block.setMtx_wireCh (b : Block) (m : PerSlot MtxSlot) : (b.setMtx m).wireCh = b.wireCh := rfl

/-! A channel record. -/

@[simp] theorem Block.updCh_cfg (b : Block) (i : Ch) (f : Channel → Channel) : (b.updCh i f).cfg = b.cfg := rfl
@[simp] theorem Block.updCh_phase (b : Block) (i : Ch) (f : Channel → Channel) : (b.updCh i f).phase = b.phase := rfl
@[simp] theorem Block.updCh_ck (b : Block) (i : Ch) (f : Channel → Channel) : (b.updCh i f).ck = b.ck := rfl
@[simp] theorem Block.updCh_ckmode (b : Block) (i : Ch) (f : Channel → Channel) : (b.updCh i f).ckmode = b.ckmode := rfl
@[simp] theorem Block.updCh_adcId (b : Block) (i : Ch) (f : Channel → Channel) : (b.updCh i f).adcId = b.adcId := rfl
@[simp] theorem Block.updCh_rc (b : Block) (i : Ch) (f : Channel → Channel) : (b.updCh i f).rc = b.rc := rfl
@[simp] theorem Block.updCh_ch (b : Block) (i : Ch) (f : Channel → Channel) : (b.updCh i f).ch = b.ch.set i (f (b.ch.get i)) := rfl
@[simp] theorem Block.updCh_mtx (b : Block) (i : Ch) (f : Channel → Channel) : (b.updCh i f).mtx = b.mtx := rfl
@[simp] theorem Block.updCh_nss (b : Block) (i : Ch) (f : Channel → Channel) : (b.updCh i f).nss = b.nss := rfl
@[simp] theorem Block.updCh_sync (b : Block) (i : Ch) (f : Channel → Channel) : (b.updCh i f).sync = b.sync := rfl
@[simp] theorem Block.updCh_cmd (b : Block) (i : Ch) (f : Channel → Channel) : (b.updCh i f).cmd = b.cmd := rfl
@[simp] theorem Block.updCh_opA (b : Block) (i : Ch) (f : Channel → Channel) : (b.updCh i f).opA = b.opA := rfl
@[simp] theorem Block.updCh_opB (b : Block) (i : Ch) (f : Channel → Channel) : (b.updCh i f).opB = b.opB := rfl
@[simp] theorem Block.updCh_opD (b : Block) (i : Ch) (f : Channel → Channel) : (b.updCh i f).opD = b.opD := rfl
@[simp] theorem Block.updCh_opM (b : Block) (i : Ch) (f : Channel → Channel) : (b.updCh i f).opM = b.opM := rfl
@[simp] theorem Block.updCh_rStatus (b : Block) (i : Ch) (f : Channel → Channel) : (b.updCh i f).rStatus = b.rStatus := rfl
@[simp] theorem Block.updCh_rD (b : Block) (i : Ch) (f : Channel → Channel) : (b.updCh i f).rD = b.rD := rfl
@[simp] theorem Block.updCh_rM (b : Block) (i : Ch) (f : Channel → Channel) : (b.updCh i f).rM = b.rM := rfl
@[simp] theorem Block.updCh_rA (b : Block) (i : Ch) (f : Channel → Channel) : (b.updCh i f).rA = b.rA := rfl
@[simp] theorem Block.updCh_hist (b : Block) (i : Ch) (f : Channel → Channel) : (b.updCh i f).hist = b.hist := rfl
@[simp] theorem Block.updCh_script (b : Block) (i : Ch) (f : Channel → Channel) : (b.updCh i f).script = b.script := rfl
@[simp] theorem Block.updCh_ports (b : Block) (i : Ch) (f : Channel → Channel) : (b.updCh i f).ports = b.ports := rfl
@[simp] theorem Block.updCh_grant (b : Block) (i : Ch) (f : Channel → Channel) : (b.updCh i f).grant = b.grant := rfl
@[simp] theorem Block.updCh_wireCh (b : Block) (i : Ch) (f : Channel → Channel) : (b.updCh i f).wireCh = b.wireCh := rfl

/-! A matrix slot. -/

@[simp] theorem Block.updSlot_cfg (b : Block) (k : Slot) (f : MtxSlot → MtxSlot) : (b.updSlot k f).cfg = b.cfg := rfl
@[simp] theorem Block.updSlot_phase (b : Block) (k : Slot) (f : MtxSlot → MtxSlot) : (b.updSlot k f).phase = b.phase := rfl
@[simp] theorem Block.updSlot_ck (b : Block) (k : Slot) (f : MtxSlot → MtxSlot) : (b.updSlot k f).ck = b.ck := rfl
@[simp] theorem Block.updSlot_ckmode (b : Block) (k : Slot) (f : MtxSlot → MtxSlot) : (b.updSlot k f).ckmode = b.ckmode := rfl
@[simp] theorem Block.updSlot_adcId (b : Block) (k : Slot) (f : MtxSlot → MtxSlot) : (b.updSlot k f).adcId = b.adcId := rfl
@[simp] theorem Block.updSlot_rc (b : Block) (k : Slot) (f : MtxSlot → MtxSlot) : (b.updSlot k f).rc = b.rc := rfl
@[simp] theorem Block.updSlot_ch (b : Block) (k : Slot) (f : MtxSlot → MtxSlot) : (b.updSlot k f).ch = b.ch := rfl
@[simp] theorem Block.updSlot_mtx (b : Block) (k : Slot) (f : MtxSlot → MtxSlot) : (b.updSlot k f).mtx = b.mtx.set k (f (b.mtx.get k)) := rfl
@[simp] theorem Block.updSlot_nss (b : Block) (k : Slot) (f : MtxSlot → MtxSlot) : (b.updSlot k f).nss = b.nss := rfl
@[simp] theorem Block.updSlot_sync (b : Block) (k : Slot) (f : MtxSlot → MtxSlot) : (b.updSlot k f).sync = b.sync := rfl
@[simp] theorem Block.updSlot_cmd (b : Block) (k : Slot) (f : MtxSlot → MtxSlot) : (b.updSlot k f).cmd = b.cmd := rfl
@[simp] theorem Block.updSlot_opA (b : Block) (k : Slot) (f : MtxSlot → MtxSlot) : (b.updSlot k f).opA = b.opA := rfl
@[simp] theorem Block.updSlot_opB (b : Block) (k : Slot) (f : MtxSlot → MtxSlot) : (b.updSlot k f).opB = b.opB := rfl
@[simp] theorem Block.updSlot_opD (b : Block) (k : Slot) (f : MtxSlot → MtxSlot) : (b.updSlot k f).opD = b.opD := rfl
@[simp] theorem Block.updSlot_opM (b : Block) (k : Slot) (f : MtxSlot → MtxSlot) : (b.updSlot k f).opM = b.opM := rfl
@[simp] theorem Block.updSlot_rStatus (b : Block) (k : Slot) (f : MtxSlot → MtxSlot) : (b.updSlot k f).rStatus = b.rStatus := rfl
@[simp] theorem Block.updSlot_rD (b : Block) (k : Slot) (f : MtxSlot → MtxSlot) : (b.updSlot k f).rD = b.rD := rfl
@[simp] theorem Block.updSlot_rM (b : Block) (k : Slot) (f : MtxSlot → MtxSlot) : (b.updSlot k f).rM = b.rM := rfl
@[simp] theorem Block.updSlot_rA (b : Block) (k : Slot) (f : MtxSlot → MtxSlot) : (b.updSlot k f).rA = b.rA := rfl
@[simp] theorem Block.updSlot_hist (b : Block) (k : Slot) (f : MtxSlot → MtxSlot) : (b.updSlot k f).hist = b.hist := rfl
@[simp] theorem Block.updSlot_script (b : Block) (k : Slot) (f : MtxSlot → MtxSlot) : (b.updSlot k f).script = b.script := rfl
@[simp] theorem Block.updSlot_ports (b : Block) (k : Slot) (f : MtxSlot → MtxSlot) : (b.updSlot k f).ports = b.ports := rfl
@[simp] theorem Block.updSlot_grant (b : Block) (k : Slot) (f : MtxSlot → MtxSlot) : (b.updSlot k f).grant = b.grant := rfl
@[simp] theorem Block.updSlot_wireCh (b : Block) (k : Slot) (f : MtxSlot → MtxSlot) : (b.updSlot k f).wireCh = b.wireCh := rfl

/-! The retry counters. -/

@[simp] theorem Block.bumpRead_cfg (b : Block) : (b.bumpRead).cfg = b.cfg := rfl
@[simp] theorem Block.bumpRead_phase (b : Block) : (b.bumpRead).phase = b.phase := rfl
@[simp] theorem Block.bumpRead_ck (b : Block) : (b.bumpRead).ck = b.ck := rfl
@[simp] theorem Block.bumpRead_ckmode (b : Block) : (b.bumpRead).ckmode = b.ckmode := rfl
@[simp] theorem Block.bumpRead_adcId (b : Block) : (b.bumpRead).adcId = b.adcId := rfl
@[simp] theorem Block.bumpRead_rc (b : Block) : (b.bumpRead).rc = { b.rc with read := b.rc.read + 1#32 } := rfl
@[simp] theorem Block.bumpRead_ch (b : Block) : (b.bumpRead).ch = b.ch := rfl
@[simp] theorem Block.bumpRead_mtx (b : Block) : (b.bumpRead).mtx = b.mtx := rfl
@[simp] theorem Block.bumpRead_nss (b : Block) : (b.bumpRead).nss = b.nss := rfl
@[simp] theorem Block.bumpRead_sync (b : Block) : (b.bumpRead).sync = b.sync := rfl
@[simp] theorem Block.bumpRead_cmd (b : Block) : (b.bumpRead).cmd = b.cmd := rfl
@[simp] theorem Block.bumpRead_opA (b : Block) : (b.bumpRead).opA = b.opA := rfl
@[simp] theorem Block.bumpRead_opB (b : Block) : (b.bumpRead).opB = b.opB := rfl
@[simp] theorem Block.bumpRead_opD (b : Block) : (b.bumpRead).opD = b.opD := rfl
@[simp] theorem Block.bumpRead_opM (b : Block) : (b.bumpRead).opM = b.opM := rfl
@[simp] theorem Block.bumpRead_rStatus (b : Block) : (b.bumpRead).rStatus = b.rStatus := rfl
@[simp] theorem Block.bumpRead_rD (b : Block) : (b.bumpRead).rD = b.rD := rfl
@[simp] theorem Block.bumpRead_rM (b : Block) : (b.bumpRead).rM = b.rM := rfl
@[simp] theorem Block.bumpRead_rA (b : Block) : (b.bumpRead).rA = b.rA := rfl
@[simp] theorem Block.bumpRead_hist (b : Block) : (b.bumpRead).hist = b.hist := rfl
@[simp] theorem Block.bumpRead_script (b : Block) : (b.bumpRead).script = b.script := rfl
@[simp] theorem Block.bumpRead_ports (b : Block) : (b.bumpRead).ports = b.ports := rfl
@[simp] theorem Block.bumpRead_grant (b : Block) : (b.bumpRead).grant = b.grant := rfl
@[simp] theorem Block.bumpRead_wireCh (b : Block) : (b.bumpRead).wireCh = b.wireCh := rfl

@[simp] theorem Block.bumpWrite_cfg (b : Block) : (b.bumpWrite).cfg = b.cfg := rfl
@[simp] theorem Block.bumpWrite_phase (b : Block) : (b.bumpWrite).phase = b.phase := rfl
@[simp] theorem Block.bumpWrite_ck (b : Block) : (b.bumpWrite).ck = b.ck := rfl
@[simp] theorem Block.bumpWrite_ckmode (b : Block) : (b.bumpWrite).ckmode = b.ckmode := rfl
@[simp] theorem Block.bumpWrite_adcId (b : Block) : (b.bumpWrite).adcId = b.adcId := rfl
@[simp] theorem Block.bumpWrite_rc (b : Block) : (b.bumpWrite).rc = { b.rc with write := b.rc.write + 1#32 } := rfl
@[simp] theorem Block.bumpWrite_ch (b : Block) : (b.bumpWrite).ch = b.ch := rfl
@[simp] theorem Block.bumpWrite_mtx (b : Block) : (b.bumpWrite).mtx = b.mtx := rfl
@[simp] theorem Block.bumpWrite_nss (b : Block) : (b.bumpWrite).nss = b.nss := rfl
@[simp] theorem Block.bumpWrite_sync (b : Block) : (b.bumpWrite).sync = b.sync := rfl
@[simp] theorem Block.bumpWrite_cmd (b : Block) : (b.bumpWrite).cmd = b.cmd := rfl
@[simp] theorem Block.bumpWrite_opA (b : Block) : (b.bumpWrite).opA = b.opA := rfl
@[simp] theorem Block.bumpWrite_opB (b : Block) : (b.bumpWrite).opB = b.opB := rfl
@[simp] theorem Block.bumpWrite_opD (b : Block) : (b.bumpWrite).opD = b.opD := rfl
@[simp] theorem Block.bumpWrite_opM (b : Block) : (b.bumpWrite).opM = b.opM := rfl
@[simp] theorem Block.bumpWrite_rStatus (b : Block) : (b.bumpWrite).rStatus = b.rStatus := rfl
@[simp] theorem Block.bumpWrite_rD (b : Block) : (b.bumpWrite).rD = b.rD := rfl
@[simp] theorem Block.bumpWrite_rM (b : Block) : (b.bumpWrite).rM = b.rM := rfl
@[simp] theorem Block.bumpWrite_rA (b : Block) : (b.bumpWrite).rA = b.rA := rfl
@[simp] theorem Block.bumpWrite_hist (b : Block) : (b.bumpWrite).hist = b.hist := rfl
@[simp] theorem Block.bumpWrite_script (b : Block) : (b.bumpWrite).script = b.script := rfl
@[simp] theorem Block.bumpWrite_ports (b : Block) : (b.bumpWrite).ports = b.ports := rfl
@[simp] theorem Block.bumpWrite_grant (b : Block) : (b.bumpWrite).grant = b.grant := rfl
@[simp] theorem Block.bumpWrite_wireCh (b : Block) : (b.bumpWrite).wireCh = b.wireCh := rfl

@[simp] theorem Block.bumpId_cfg (b : Block) : (b.bumpId).cfg = b.cfg := rfl
@[simp] theorem Block.bumpId_phase (b : Block) : (b.bumpId).phase = b.phase := rfl
@[simp] theorem Block.bumpId_ck (b : Block) : (b.bumpId).ck = b.ck := rfl
@[simp] theorem Block.bumpId_ckmode (b : Block) : (b.bumpId).ckmode = b.ckmode := rfl
@[simp] theorem Block.bumpId_adcId (b : Block) : (b.bumpId).adcId = b.adcId := rfl
@[simp] theorem Block.bumpId_rc (b : Block) : (b.bumpId).rc = { b.rc with id := b.rc.id + 1#32 } := rfl
@[simp] theorem Block.bumpId_ch (b : Block) : (b.bumpId).ch = b.ch := rfl
@[simp] theorem Block.bumpId_mtx (b : Block) : (b.bumpId).mtx = b.mtx := rfl
@[simp] theorem Block.bumpId_nss (b : Block) : (b.bumpId).nss = b.nss := rfl
@[simp] theorem Block.bumpId_sync (b : Block) : (b.bumpId).sync = b.sync := rfl
@[simp] theorem Block.bumpId_cmd (b : Block) : (b.bumpId).cmd = b.cmd := rfl
@[simp] theorem Block.bumpId_opA (b : Block) : (b.bumpId).opA = b.opA := rfl
@[simp] theorem Block.bumpId_opB (b : Block) : (b.bumpId).opB = b.opB := rfl
@[simp] theorem Block.bumpId_opD (b : Block) : (b.bumpId).opD = b.opD := rfl
@[simp] theorem Block.bumpId_opM (b : Block) : (b.bumpId).opM = b.opM := rfl
@[simp] theorem Block.bumpId_rStatus (b : Block) : (b.bumpId).rStatus = b.rStatus := rfl
@[simp] theorem Block.bumpId_rD (b : Block) : (b.bumpId).rD = b.rD := rfl
@[simp] theorem Block.bumpId_rM (b : Block) : (b.bumpId).rM = b.rM := rfl
@[simp] theorem Block.bumpId_rA (b : Block) : (b.bumpId).rA = b.rA := rfl
@[simp] theorem Block.bumpId_hist (b : Block) : (b.bumpId).hist = b.hist := rfl
@[simp] theorem Block.bumpId_script (b : Block) : (b.bumpId).script = b.script := rfl
@[simp] theorem Block.bumpId_ports (b : Block) : (b.bumpId).ports = b.ports := rfl
@[simp] theorem Block.bumpId_grant (b : Block) : (b.bumpId).grant = b.grant := rfl
@[simp] theorem Block.bumpId_wireCh (b : Block) : (b.bumpId).wireCh = b.wireCh := rfl

/-! The history. -/

@[simp] theorem Block.record_cfg (b : Block) (e : Event) : (b.record e).cfg = b.cfg := rfl
@[simp] theorem Block.record_phase (b : Block) (e : Event) : (b.record e).phase = b.phase := rfl
@[simp] theorem Block.record_ck (b : Block) (e : Event) : (b.record e).ck = b.ck := rfl
@[simp] theorem Block.record_ckmode (b : Block) (e : Event) : (b.record e).ckmode = b.ckmode := rfl
@[simp] theorem Block.record_adcId (b : Block) (e : Event) : (b.record e).adcId = b.adcId := rfl
@[simp] theorem Block.record_rc (b : Block) (e : Event) : (b.record e).rc = b.rc := rfl
@[simp] theorem Block.record_ch (b : Block) (e : Event) : (b.record e).ch = b.ch := rfl
@[simp] theorem Block.record_mtx (b : Block) (e : Event) : (b.record e).mtx = b.mtx := rfl
@[simp] theorem Block.record_nss (b : Block) (e : Event) : (b.record e).nss = b.nss := rfl
@[simp] theorem Block.record_sync (b : Block) (e : Event) : (b.record e).sync = b.sync := rfl
@[simp] theorem Block.record_cmd (b : Block) (e : Event) : (b.record e).cmd = b.cmd := rfl
@[simp] theorem Block.record_opA (b : Block) (e : Event) : (b.record e).opA = b.opA := rfl
@[simp] theorem Block.record_opB (b : Block) (e : Event) : (b.record e).opB = b.opB := rfl
@[simp] theorem Block.record_opD (b : Block) (e : Event) : (b.record e).opD = b.opD := rfl
@[simp] theorem Block.record_opM (b : Block) (e : Event) : (b.record e).opM = b.opM := rfl
@[simp] theorem Block.record_rStatus (b : Block) (e : Event) : (b.record e).rStatus = b.rStatus := rfl
@[simp] theorem Block.record_rD (b : Block) (e : Event) : (b.record e).rD = b.rD := rfl
@[simp] theorem Block.record_rM (b : Block) (e : Event) : (b.record e).rM = b.rM := rfl
@[simp] theorem Block.record_rA (b : Block) (e : Event) : (b.record e).rA = b.rA := rfl
@[simp] theorem Block.record_hist (b : Block) (e : Event) : (b.record e).hist = e :: b.hist := rfl
@[simp] theorem Block.record_script (b : Block) (e : Event) : (b.record e).script = b.script := rfl
@[simp] theorem Block.record_ports (b : Block) (e : Event) : (b.record e).ports = b.ports := rfl
@[simp] theorem Block.record_grant (b : Block) (e : Event) : (b.record e).grant = b.grant := rfl
@[simp] theorem Block.record_wireCh (b : Block) (e : Event) : (b.record e).wireCh = b.wireCh := rfl

/-! The port oracle. -/

@[simp] theorem Block.consumed_cfg (b : Block) : (b.consumed).cfg = b.cfg := rfl
@[simp] theorem Block.consumed_phase (b : Block) : (b.consumed).phase = b.phase := rfl
@[simp] theorem Block.consumed_ck (b : Block) : (b.consumed).ck = b.ck := rfl
@[simp] theorem Block.consumed_ckmode (b : Block) : (b.consumed).ckmode = b.ckmode := rfl
@[simp] theorem Block.consumed_adcId (b : Block) : (b.consumed).adcId = b.adcId := rfl
@[simp] theorem Block.consumed_rc (b : Block) : (b.consumed).rc = b.rc := rfl
@[simp] theorem Block.consumed_ch (b : Block) : (b.consumed).ch = b.ch := rfl
@[simp] theorem Block.consumed_mtx (b : Block) : (b.consumed).mtx = b.mtx := rfl
@[simp] theorem Block.consumed_nss (b : Block) : (b.consumed).nss = b.nss := rfl
@[simp] theorem Block.consumed_sync (b : Block) : (b.consumed).sync = b.sync := rfl
@[simp] theorem Block.consumed_cmd (b : Block) : (b.consumed).cmd = b.cmd := rfl
@[simp] theorem Block.consumed_opA (b : Block) : (b.consumed).opA = b.opA := rfl
@[simp] theorem Block.consumed_opB (b : Block) : (b.consumed).opB = b.opB := rfl
@[simp] theorem Block.consumed_opD (b : Block) : (b.consumed).opD = b.opD := rfl
@[simp] theorem Block.consumed_opM (b : Block) : (b.consumed).opM = b.opM := rfl
@[simp] theorem Block.consumed_rStatus (b : Block) : (b.consumed).rStatus = b.rStatus := rfl
@[simp] theorem Block.consumed_rD (b : Block) : (b.consumed).rD = b.rD := rfl
@[simp] theorem Block.consumed_rM (b : Block) : (b.consumed).rM = b.rM := rfl
@[simp] theorem Block.consumed_rA (b : Block) : (b.consumed).rA = b.rA := rfl
@[simp] theorem Block.consumed_hist (b : Block) : (b.consumed).hist = b.hist := rfl
@[simp] theorem Block.consumed_script (b : Block) : (b.consumed).script = b.script.tail := rfl
@[simp] theorem Block.consumed_ports (b : Block) : (b.consumed).ports = b.ports + 1 := rfl
@[simp] theorem Block.consumed_grant (b : Block) : (b.consumed).grant = b.grant := rfl
@[simp] theorem Block.consumed_wireCh (b : Block) : (b.consumed).wireCh = b.wireCh := rfl

/-! The end of a command. -/

@[simp] theorem Block.finish_cfg (b : Block) (st : BitVec 8) (r : Results) : (b.finish st r).cfg = b.cfg := rfl
@[simp] theorem Block.finish_phase (b : Block) (st : BitVec 8) (r : Results) : (b.finish st r).phase = b.phase := rfl
@[simp] theorem Block.finish_ck (b : Block) (st : BitVec 8) (r : Results) : (b.finish st r).ck = b.ck := rfl
@[simp] theorem Block.finish_ckmode (b : Block) (st : BitVec 8) (r : Results) : (b.finish st r).ckmode = b.ckmode := rfl
@[simp] theorem Block.finish_adcId (b : Block) (st : BitVec 8) (r : Results) : (b.finish st r).adcId = b.adcId := rfl
@[simp] theorem Block.finish_rc (b : Block) (st : BitVec 8) (r : Results) : (b.finish st r).rc = b.rc := rfl
@[simp] theorem Block.finish_ch (b : Block) (st : BitVec 8) (r : Results) : (b.finish st r).ch = b.ch := rfl
@[simp] theorem Block.finish_mtx (b : Block) (st : BitVec 8) (r : Results) : (b.finish st r).mtx = b.mtx := rfl
@[simp] theorem Block.finish_nss (b : Block) (st : BitVec 8) (r : Results) : (b.finish st r).nss = b.nss := rfl
@[simp] theorem Block.finish_sync (b : Block) (st : BitVec 8) (r : Results) : (b.finish st r).sync = b.sync := rfl
@[simp] theorem Block.finish_cmd (b : Block) (st : BitVec 8) (r : Results) : (b.finish st r).cmd = b.cmd := rfl
@[simp] theorem Block.finish_opA (b : Block) (st : BitVec 8) (r : Results) : (b.finish st r).opA = b.opA := rfl
@[simp] theorem Block.finish_opB (b : Block) (st : BitVec 8) (r : Results) : (b.finish st r).opB = b.opB := rfl
@[simp] theorem Block.finish_opD (b : Block) (st : BitVec 8) (r : Results) : (b.finish st r).opD = b.opD := rfl
@[simp] theorem Block.finish_opM (b : Block) (st : BitVec 8) (r : Results) : (b.finish st r).opM = b.opM := rfl
@[simp] theorem Block.finish_rStatus (b : Block) (st : BitVec 8) (r : Results) : (b.finish st r).rStatus = st := rfl
@[simp] theorem Block.finish_rD (b : Block) (st : BitVec 8) (r : Results) : (b.finish st r).rD = r.rD := rfl
@[simp] theorem Block.finish_rM (b : Block) (st : BitVec 8) (r : Results) : (b.finish st r).rM = r.rM := rfl
@[simp] theorem Block.finish_rA (b : Block) (st : BitVec 8) (r : Results) : (b.finish st r).rA = r.rA := rfl
@[simp] theorem Block.finish_hist (b : Block) (st : BitVec 8) (r : Results) : (b.finish st r).hist = .result st r.rD r.rM r.rA :: b.hist := rfl
@[simp] theorem Block.finish_script (b : Block) (st : BitVec 8) (r : Results) : (b.finish st r).script = b.script := rfl
@[simp] theorem Block.finish_ports (b : Block) (st : BitVec 8) (r : Results) : (b.finish st r).ports = b.ports := rfl
@[simp] theorem Block.finish_grant (b : Block) (st : BitVec 8) (r : Results) : (b.finish st r).grant = b.grant := rfl
@[simp] theorem Block.finish_wireCh (b : Block) (st : BitVec 8) (r : Results) : (b.finish st r).wireCh = b.wireCh := rfl

/-! The pins. -/

@[simp] theorem Block.drive_nss_cfg (b : Block) (l : Level) : (b.drive .nssAdc l).cfg = b.cfg := rfl
@[simp] theorem Block.drive_nss_phase (b : Block) (l : Level) : (b.drive .nssAdc l).phase = b.phase := rfl
@[simp] theorem Block.drive_nss_ck (b : Block) (l : Level) : (b.drive .nssAdc l).ck = b.ck := rfl
@[simp] theorem Block.drive_nss_ckmode (b : Block) (l : Level) : (b.drive .nssAdc l).ckmode = b.ckmode := rfl
@[simp] theorem Block.drive_nss_adcId (b : Block) (l : Level) : (b.drive .nssAdc l).adcId = b.adcId := rfl
@[simp] theorem Block.drive_nss_rc (b : Block) (l : Level) : (b.drive .nssAdc l).rc = b.rc := rfl
@[simp] theorem Block.drive_nss_ch (b : Block) (l : Level) : (b.drive .nssAdc l).ch = b.ch := rfl
@[simp] theorem Block.drive_nss_mtx (b : Block) (l : Level) : (b.drive .nssAdc l).mtx = b.mtx := rfl
@[simp] theorem Block.drive_nss_nss (b : Block) (l : Level) : (b.drive .nssAdc l).nss = l := rfl
@[simp] theorem Block.drive_nss_sync (b : Block) (l : Level) : (b.drive .nssAdc l).sync = b.sync := rfl
@[simp] theorem Block.drive_nss_cmd (b : Block) (l : Level) : (b.drive .nssAdc l).cmd = b.cmd := rfl
@[simp] theorem Block.drive_nss_opA (b : Block) (l : Level) : (b.drive .nssAdc l).opA = b.opA := rfl
@[simp] theorem Block.drive_nss_opB (b : Block) (l : Level) : (b.drive .nssAdc l).opB = b.opB := rfl
@[simp] theorem Block.drive_nss_opD (b : Block) (l : Level) : (b.drive .nssAdc l).opD = b.opD := rfl
@[simp] theorem Block.drive_nss_opM (b : Block) (l : Level) : (b.drive .nssAdc l).opM = b.opM := rfl
@[simp] theorem Block.drive_nss_rStatus (b : Block) (l : Level) : (b.drive .nssAdc l).rStatus = b.rStatus := rfl
@[simp] theorem Block.drive_nss_rD (b : Block) (l : Level) : (b.drive .nssAdc l).rD = b.rD := rfl
@[simp] theorem Block.drive_nss_rM (b : Block) (l : Level) : (b.drive .nssAdc l).rM = b.rM := rfl
@[simp] theorem Block.drive_nss_rA (b : Block) (l : Level) : (b.drive .nssAdc l).rA = b.rA := rfl
@[simp] theorem Block.drive_nss_hist (b : Block) (l : Level) : (b.drive .nssAdc l).hist = .pin .nssAdc l :: b.hist := rfl
@[simp] theorem Block.drive_nss_script (b : Block) (l : Level) : (b.drive .nssAdc l).script = b.script := rfl
@[simp] theorem Block.drive_nss_ports (b : Block) (l : Level) : (b.drive .nssAdc l).ports = b.ports := rfl
@[simp] theorem Block.drive_nss_grant (b : Block) (l : Level) : (b.drive .nssAdc l).grant = b.grant := rfl
@[simp] theorem Block.drive_nss_wireCh (b : Block) (l : Level) : (b.drive .nssAdc l).wireCh = b.wireCh := rfl
@[simp] theorem Block.drive_sync_cfg (b : Block) (i : Ch) (l : Level) : (b.drive (.sync i) l).cfg = b.cfg := rfl
@[simp] theorem Block.drive_sync_phase (b : Block) (i : Ch) (l : Level) : (b.drive (.sync i) l).phase = b.phase := rfl
@[simp] theorem Block.drive_sync_ck (b : Block) (i : Ch) (l : Level) : (b.drive (.sync i) l).ck = b.ck := rfl
@[simp] theorem Block.drive_sync_ckmode (b : Block) (i : Ch) (l : Level) : (b.drive (.sync i) l).ckmode = b.ckmode := rfl
@[simp] theorem Block.drive_sync_adcId (b : Block) (i : Ch) (l : Level) : (b.drive (.sync i) l).adcId = b.adcId := rfl
@[simp] theorem Block.drive_sync_rc (b : Block) (i : Ch) (l : Level) : (b.drive (.sync i) l).rc = b.rc := rfl
@[simp] theorem Block.drive_sync_ch (b : Block) (i : Ch) (l : Level) : (b.drive (.sync i) l).ch = b.ch := rfl
@[simp] theorem Block.drive_sync_mtx (b : Block) (i : Ch) (l : Level) : (b.drive (.sync i) l).mtx = b.mtx := rfl
@[simp] theorem Block.drive_sync_nss (b : Block) (i : Ch) (l : Level) : (b.drive (.sync i) l).nss = b.nss := rfl
@[simp] theorem Block.drive_sync_sync (b : Block) (i : Ch) (l : Level) : (b.drive (.sync i) l).sync = b.sync.set i (some l) := rfl
@[simp] theorem Block.drive_sync_cmd (b : Block) (i : Ch) (l : Level) : (b.drive (.sync i) l).cmd = b.cmd := rfl
@[simp] theorem Block.drive_sync_opA (b : Block) (i : Ch) (l : Level) : (b.drive (.sync i) l).opA = b.opA := rfl
@[simp] theorem Block.drive_sync_opB (b : Block) (i : Ch) (l : Level) : (b.drive (.sync i) l).opB = b.opB := rfl
@[simp] theorem Block.drive_sync_opD (b : Block) (i : Ch) (l : Level) : (b.drive (.sync i) l).opD = b.opD := rfl
@[simp] theorem Block.drive_sync_opM (b : Block) (i : Ch) (l : Level) : (b.drive (.sync i) l).opM = b.opM := rfl
@[simp] theorem Block.drive_sync_rStatus (b : Block) (i : Ch) (l : Level) : (b.drive (.sync i) l).rStatus = b.rStatus := rfl
@[simp] theorem Block.drive_sync_rD (b : Block) (i : Ch) (l : Level) : (b.drive (.sync i) l).rD = b.rD := rfl
@[simp] theorem Block.drive_sync_rM (b : Block) (i : Ch) (l : Level) : (b.drive (.sync i) l).rM = b.rM := rfl
@[simp] theorem Block.drive_sync_rA (b : Block) (i : Ch) (l : Level) : (b.drive (.sync i) l).rA = b.rA := rfl
@[simp] theorem Block.drive_sync_hist (b : Block) (i : Ch) (l : Level) : (b.drive (.sync i) l).hist = .pin (.sync i) l :: b.hist := rfl
@[simp] theorem Block.drive_sync_script (b : Block) (i : Ch) (l : Level) : (b.drive (.sync i) l).script = b.script := rfl
@[simp] theorem Block.drive_sync_ports (b : Block) (i : Ch) (l : Level) : (b.drive (.sync i) l).ports = b.ports := rfl
@[simp] theorem Block.drive_sync_grant (b : Block) (i : Ch) (l : Level) : (b.drive (.sync i) l).grant = b.grant := rfl
@[simp] theorem Block.drive_sync_wireCh (b : Block) (i : Ch) (l : Level) : (b.drive (.sync i) l).wireCh = b.wireCh := rfl
@[simp] theorem Block.drive_tec_cfg (b : Block) (i : Ch) (l : Level) : (b.drive (.tecEn i) l).cfg = b.cfg := rfl
@[simp] theorem Block.drive_tec_phase (b : Block) (i : Ch) (l : Level) : (b.drive (.tecEn i) l).phase = b.phase := rfl
@[simp] theorem Block.drive_tec_ck (b : Block) (i : Ch) (l : Level) : (b.drive (.tecEn i) l).ck = b.ck := rfl
@[simp] theorem Block.drive_tec_ckmode (b : Block) (i : Ch) (l : Level) : (b.drive (.tecEn i) l).ckmode = b.ckmode := rfl
@[simp] theorem Block.drive_tec_adcId (b : Block) (i : Ch) (l : Level) : (b.drive (.tecEn i) l).adcId = b.adcId := rfl
@[simp] theorem Block.drive_tec_rc (b : Block) (i : Ch) (l : Level) : (b.drive (.tecEn i) l).rc = b.rc := rfl
@[simp] theorem Block.drive_tec_ch (b : Block) (i : Ch) (l : Level) : (b.drive (.tecEn i) l).ch = b.ch.set i { b.ch.get i with tecEn := decide (l = .high) } := rfl
@[simp] theorem Block.drive_tec_mtx (b : Block) (i : Ch) (l : Level) : (b.drive (.tecEn i) l).mtx = b.mtx := rfl
@[simp] theorem Block.drive_tec_nss (b : Block) (i : Ch) (l : Level) : (b.drive (.tecEn i) l).nss = b.nss := rfl
@[simp] theorem Block.drive_tec_sync (b : Block) (i : Ch) (l : Level) : (b.drive (.tecEn i) l).sync = b.sync := rfl
@[simp] theorem Block.drive_tec_cmd (b : Block) (i : Ch) (l : Level) : (b.drive (.tecEn i) l).cmd = b.cmd := rfl
@[simp] theorem Block.drive_tec_opA (b : Block) (i : Ch) (l : Level) : (b.drive (.tecEn i) l).opA = b.opA := rfl
@[simp] theorem Block.drive_tec_opB (b : Block) (i : Ch) (l : Level) : (b.drive (.tecEn i) l).opB = b.opB := rfl
@[simp] theorem Block.drive_tec_opD (b : Block) (i : Ch) (l : Level) : (b.drive (.tecEn i) l).opD = b.opD := rfl
@[simp] theorem Block.drive_tec_opM (b : Block) (i : Ch) (l : Level) : (b.drive (.tecEn i) l).opM = b.opM := rfl
@[simp] theorem Block.drive_tec_rStatus (b : Block) (i : Ch) (l : Level) : (b.drive (.tecEn i) l).rStatus = b.rStatus := rfl
@[simp] theorem Block.drive_tec_rD (b : Block) (i : Ch) (l : Level) : (b.drive (.tecEn i) l).rD = b.rD := rfl
@[simp] theorem Block.drive_tec_rM (b : Block) (i : Ch) (l : Level) : (b.drive (.tecEn i) l).rM = b.rM := rfl
@[simp] theorem Block.drive_tec_rA (b : Block) (i : Ch) (l : Level) : (b.drive (.tecEn i) l).rA = b.rA := rfl
@[simp] theorem Block.drive_tec_hist (b : Block) (i : Ch) (l : Level) : (b.drive (.tecEn i) l).hist = .pin (.tecEn i) l :: b.hist := rfl
@[simp] theorem Block.drive_tec_script (b : Block) (i : Ch) (l : Level) : (b.drive (.tecEn i) l).script = b.script := rfl
@[simp] theorem Block.drive_tec_ports (b : Block) (i : Ch) (l : Level) : (b.drive (.tecEn i) l).ports = b.ports := rfl
@[simp] theorem Block.drive_tec_grant (b : Block) (i : Ch) (l : Level) : (b.drive (.tecEn i) l).grant = b.grant := rfl
@[simp] theorem Block.drive_tec_wireCh (b : Block) (i : Ch) (l : Level) : (b.drive (.tecEn i) l).wireCh = b.wireCh := rfl

/-! The host's act (R48, R8, log 22). -/

/-- R48: with nothing pending and nothing in progress the operands are written and the command is pending. -/
theorem State.hostIssue_idle {s : State} (hp : s.pending = .idle) (hr : s.running = none) (cmd : BitVec 32) (opA opB : F64)
    (opD opM : BitVec 32) : s.hostIssue cmd opA opB opD opM =
      { s with cmd := cmd, opA := opA, opB := opB, opD := opD, opM := opM, pending := .command } := by
  simp only [State.hostIssue, hp, hr]

/-- R8: while a command is in progress the host waits. -/
theorem State.hostIssue_running {s : State} {r : Running} (hr : s.running = some r) (cmd : BitVec 32) (opA opB : F64)
    (opD opM : BitVec 32) : s.hostIssue cmd opA opB opD opM = s := by
  rw [State.hostIssue, hr]
  cases s.pending <;> rfl

end Sys2Proof.Machine
end

