-- ==== Sys2Proof/Laws/Cmd.lean ====
section
/-! SUPPORT. How a command's computation runs: one equation per construct, and a relation between the block before and after
that composes over them (`Cmd.Within`), for frames and invariants. -/

namespace Sys2Proof.Machine

section Run

variable {α β : Type}

@[simp] theorem Cmd.run_pure (a : α) (b : Block) : (pure a : Cmd α) b = .ok a b := rfl

@[simp] theorem Cmd.run_raise (e : Err) (b : Block) : (raise e : Cmd α) b = .error (.raised e) b := rfl

@[simp] theorem Cmd.run_pause (b : Block) : (pause : Cmd α) b = .error .paused b := rfl

@[simp] theorem Cmd.run_look (f : Block → α) (b : Block) : look f b = .ok (f b) b := rfl

@[simp] theorem Cmd.run_lookReg (f : RegTable → α) (b : Block) : lookReg f b = .ok (f b.regs) b := rfl

@[simp] theorem Cmd.run_update (f : Block → Block) (b : Block) : update f b = .ok () (f b) := rfl

@[simp] theorem Cmd.run_lookCh (i : Ch) (f : Channel → α) (b : Block) : lookCh i f b = .ok (f (b.ch.get i)) b := rfl

@[simp] theorem Cmd.run_updateCh (i : Ch) (f : Channel → Channel) (b : Block) :
    updateCh i f b = .ok () (b.updCh i f) := rfl

@[simp] theorem Cmd.run_pinSet (p : Pin) (l : Level) (b : Block) : pinSet p l b = .ok () (b.drive p l) := rfl

theorem Cmd.run_bind (x : Cmd α) (f : α → Cmd β) (b : Block) :
    (x >>= f) b = match x b with
      | .ok a b' => f a b'
      | .error e b' => .error e b' := by
  show EStateM.bind x f b = _
  unfold EStateM.bind
  cases x b <;> rfl

/-- A bind whose first part succeeds goes on with its value. -/
theorem Cmd.run_bind_ok {x : Cmd α} {b b' : Block} {a : α} (h : x b = .ok a b') (f : α → Cmd β) :
    (x >>= f) b = f a b' := by rw [Cmd.run_bind, h]

/-- A bind whose first part breaks off breaks off there. -/
theorem Cmd.run_bind_error {x : Cmd α} {b b' : Block} {e : Stop} (h : x b = .error e b') (f : α → Cmd β) :
    (x >>= f) b = .error e b' := by rw [Cmd.run_bind, h]

/-- What a bind can end with. -/
theorem Cmd.bind_ok_iff {x : Cmd α} {f : α → Cmd β} {b b' : Block} {v : β} :
    (x >>= f) b = .ok v b' ↔ ∃ a b1, x b = .ok a b1 ∧ f a b1 = .ok v b' := by
  rw [Cmd.run_bind]
  cases x b <;> simp

theorem Cmd.run_onStop (x : Cmd α) (f : Block → Block) (b : Block) :
    onStop x f b = match x b with
      | .ok a b' => .ok a b'
      | .error e b' => .error e (f b') := rfl

@[simp] theorem Cmd.run_requireLegal (ok : Bool) (b : Block) :
    requireLegal ok b = if ok then .ok () b else .error (.raised (.illegalCommand b.cmd)) b := by
  cases ok <;> rfl

theorem run_spiXfer (port : Port) (out : List Byte) (b : Block) :
    spiXfer port out b =
      if b.nextAnswer.fails then .error (.raised (.transport port)) (b.consumed.record (.spiFail port out))
      else .ok (fitBytes out.length b.nextAnswer.bytes)
        (b.consumed.record (.spi port out (fitBytes out.length b.nextAnswer.bytes))) := rfl

theorem run_fbSample (ch : Ch) (src : FbSource) (b : Block) :
    fbSample ch src b =
      if b.nextAnswer.fails then .error (.raised (.transport .sampler)) (b.consumed.record (.fbFail ch src))
      else .ok b.nextAnswer.volts (b.consumed.record (.fb ch src b.nextAnswer.volts)) := rfl

end Run

/-! Relations kept by every way a computation can end. -/

/-- However x ends, `R` relates the block before to the block after, and a stop satisfies `E`. -/
def Cmd.Within {α : Type} (R : Block → Block → Prop) (E : Block → Stop → Prop) (x : Cmd α) : Prop :=
  ∀ b, match x b with
    | .ok _ b' => R b b'
    | .error e b' => R b b' ∧ E b e

/-- What `Within` needs of its relation and its stops: reflexive, transitive, and a stop judged after some steps is judged the same
from the start. -/
structure Cmd.Frame (R : Block → Block → Prop) (E : Block → Stop → Prop) : Prop where
  refl : ∀ b, R b b
  trans : ∀ {a b c}, R a b → R b c → R a c
  stop : ∀ {a b e}, R a b → E b e → E a e

namespace Cmd.Within

variable {α β : Type} {R : Block → Block → Prop} {E : Block → Stop → Prop}

theorem ok {x : Cmd α} (h : x.Within R E) {b b' : Block} {a : α} (hx : x b = .ok a b') : R b b' := by
  have := h b; rw [hx] at this; exact this

theorem error {x : Cmd α} (h : x.Within R E) {b b' : Block} {e : Stop} (hx : x b = .error e b') : R b b' ∧ E b e := by
  have := h b; rw [hx] at this; exact this

theorem pure (hF : Cmd.Frame R E) (a : α) : (Pure.pure a : Cmd α).Within R E := fun b => hF.refl b

theorem look (hF : Cmd.Frame R E) (f : Block → α) : (Machine.look f).Within R E := fun b => hF.refl b

theorem lookCh (hF : Cmd.Frame R E) (i : Ch) (f : Channel → α) : (Machine.lookCh i f).Within R E := fun b => hF.refl b

theorem update {f : Block → Block} (h : ∀ b, R b (f b)) : (Machine.update f).Within R E := fun b => h b

theorem raise (hF : Cmd.Frame R E) {e : Err} (h : ∀ b, E b (.raised e)) : (Machine.raise e : Cmd α).Within R E :=
  fun b => ⟨hF.refl b, h b⟩

theorem bind (hF : Cmd.Frame R E) {x : Cmd α} {f : α → Cmd β} (hx : x.Within R E) (hf : ∀ a, (f a).Within R E) :
    (x >>= f).Within R E := by
  intro b
  have hb := hx b
  rw [Cmd.run_bind]
  cases hxb : x b with
  | error e b1 => rw [hxb] at hb; exact hb
  | ok a b1 =>
    rw [hxb] at hb
    show match f a b1 with
      | .ok _ b' => R b b'
      | .error e b' => R b b' ∧ E b e
    have h2 := hf a b1
    cases hfa : f a b1 with
    | error e b2 => rw [hfa] at h2; exact ⟨hF.trans hb h2.1, hF.stop hb h2.2⟩
    | ok v b2 => rw [hfa] at h2; exact hF.trans hb h2

/-- The turn of a retry loop may use the loop's count and budget freely; only the loop's own stops are new. -/
theorem retryFrom (hF : Cmd.Frame R E) {loop : LoopId} {body : β → Cmd (Turn α β)}
    (hbody : ∀ v, (body v).Within R E)
    (hx : ∀ b limit, b.cfg.retryLimit = some limit → E b (.raised (.retriesExhausted loop)))
    (hu : ∀ b, b.cfg.retryLimit = none → E b .paused)
    (hcfg : ∀ b b', R b b' → b'.cfg.retryLimit = b.cfg.retryLimit) :
    ∀ fuel count v b, (∀ limit, b.cfg.retryLimit = some limit → count + fuel = limit) →
      match Machine.retryFrom loop body fuel count v b with
      | .ok _ b' => R b b'
      | .error e b' => R b b' ∧ E b e := by
  intro fuel
  induction fuel with
  | zero =>
    intro count v b hlim
    have hb := hbody v b
    rw [Machine.retryFrom, Cmd.run_bind]
    cases hv : body v b with
    | error e b1 => rw [hv] at hb; exact hb
    | ok t b1 =>
      rw [hv] at hb
      cases t with
      | done a => exact hb
      | again w =>
        simp only [checkBudget, Cmd.run_bind, Cmd.run_look]
        cases hl : b1.cfg.retryLimit with
        | none =>
          exact ⟨hb, hF.stop hb (hu b1 hl)⟩
        | some limit =>
          have h0 : count + 0 = limit := hlim limit (by rw [← hcfg b b1 hb, hl])
          have h1 : limit < count + 1 := by omega
          simp only [h1, if_true]
          exact ⟨hb, hF.stop hb (hx b1 limit hl)⟩
  | succ fuel ih =>
    intro count v b hlim
    have hb := hbody v b
    rw [Machine.retryFrom, Cmd.run_bind]
    cases hv : body v b with
    | error e b1 => rw [hv] at hb; exact hb
    | ok t b1 =>
      rw [hv] at hb
      cases t with
      | done a => exact hb
      | again w =>
        simp only [checkBudget, Cmd.run_bind, Cmd.run_look]
        have hstep : ∀ limit, b1.cfg.retryLimit = some limit → count + 1 + fuel = limit := by
          intro limit hl
          have := hlim limit (by rw [← hcfg b b1 hb, hl])
          omega
        have h2 := ih (count + 1) w b1 hstep
        cases hl : b1.cfg.retryLimit with
        | none =>
          simp only [Cmd.run_pure]
          cases hr : Machine.retryFrom loop body fuel (count + 1) w b1 with
          | ok a b2 => rw [hr] at h2; exact hF.trans hb h2
          | error e b2 => rw [hr] at h2; exact ⟨hF.trans hb h2.1, hF.stop hb h2.2⟩
        | some limit =>
          have h1 : ¬ limit < count + 1 := by have := hstep limit hl; omega
          simp only [h1, if_false, Cmd.run_pure]
          cases hr : Machine.retryFrom loop body fuel (count + 1) w b1 with
          | ok a b2 => rw [hr] at h2; exact hF.trans hb h2
          | error e b2 => rw [hr] at h2; exact ⟨hF.trans hb h2.1, hF.stop hb h2.2⟩

/-- A retry loop stays within what its turns stay within. With a finite RETRY_LIMIT it can only exhaust it; only an unbounded
one can pause. -/
theorem retryLoop (hF : Cmd.Frame R E) {loop : LoopId} {body : β → Cmd (Turn α β)} {v : β}
    (hbody : ∀ v, (body v).Within R E)
    (hx : ∀ b limit, b.cfg.retryLimit = some limit → E b (.raised (.retriesExhausted loop)))
    (hu : ∀ b, b.cfg.retryLimit = none → E b .paused)
    (hcfg : ∀ b b', R b b' → b'.cfg.retryLimit = b.cfg.retryLimit) :
    (Machine.retryLoop loop body v).Within R E := by
  intro b
  rw [Machine.retryLoop, Cmd.run_bind, Cmd.run_look]
  refine retryFrom hF hbody hx hu hcfg b.retryFuel 0 v b ?_
  intro limit hl
  simp only [Block.retryFuel, hl, Nat.zero_add]

end Cmd.Within

/-! The end of a command. -/

section End

variable {i : Instr} {s : State} {b : Block}

@[simp] theorem runCommand_next (i : Instr) (body : Cmd Results) (s : State) :
    runCommand i body s = .next (settle i s (body s.toBlock)) := rfl

@[simp] theorem settle_ok (r : Results) :
    settle i s (.ok r b) = { toBlock := b.finish 0#8 r, pending := s.pending, running := none } := rfl

@[simp] theorem settle_raised (e : Err) :
    settle i s (.error (.raised e) b) = { toBlock := b.takeError e, pending := s.pending, running := none } := rfl

@[simp] theorem settle_paused :
    settle i s (.error .paused b) = { toBlock := b, pending := s.pending, running := some ⟨i, s.toBlock⟩ } := rfl

/-- A command leaves what the host has started next as it was. -/
theorem settle_pending (r : EStateM.Result Stop Block Results) : (settle i s r).pending = s.pending := by
  match r with
  | .ok _ _ => rfl
  | .error (.raised _) _ => rfl
  | .error .paused _ => rfl

end End

end Sys2Proof.Machine
end

