-- ==== Sys2Proof/Laws/Adc.lean ====
section
/-! SUPPORT. What the ADC protocol's operations do when the ADC answers as a conversation says: each frame, each register
operation and each retry loop, once. -/

namespace Sys2Proof.Machine

open Safety

/-! Bytes on the wire. -/

theorem readCmdByte_eq (a : RegAddr) : readCmdByte a = readByte a := by revert a; decide

theorem writeCmdByte_eq (a : RegAddr) : writeCmdByte a = writeByte a := by revert a; decide

theorem fitBytes_length : ∀ (n : Nat) (bs : List Byte), (fitBytes n bs).length = n
  | 0, _ => rfl
  | n + 1, [] => by simp only [fitBytes, List.length_cons, fitBytes_length n]
  | n + 1, _ :: bs => by simp only [fitBytes, List.length_cons, fitBytes_length n bs]

theorem fitBytes_self : ∀ (bs : List Byte), fitBytes bs.length bs = bs
  | [] => rfl
  | b :: bs => by simp only [List.length_cons, fitBytes, fitBytes_self bs]

theorem bytesBe_length : ∀ (n : Nat) (v : BitVec 32), (bytesBe n v).length = n
  | 0, _ => rfl
  | n + 1, v => by simp only [bytesBe, List.length_cons, bytesBe_length n v]

theorem ckFeedBytes_off (acc : Byte) : ∀ bs : List Byte, ckFeedBytes ⟨.off, acc⟩ bs = ⟨.off, acc⟩
  | [] => rfl
  | _ :: bs => ckFeedBytes_off acc bs

theorem ckFeedBytes_xor (acc : Byte) : ∀ bs : List Byte,
    ckFeedBytes ⟨.xor, acc⟩ bs = ⟨.xor, bs.foldl (fun x b => x ^^^ b) acc⟩
  | [] => rfl
  | b :: bs => ckFeedBytes_xor (acc ^^^ b) bs

theorem ckFeedBytes_crc : ∀ (bs : List Byte) (acc : Byte), ckFeedBytes ⟨.crc, acc⟩ bs = ⟨.crc, bs.foldl crcSerial acc⟩
  | [], _ => rfl
  | b :: bs, acc => ckFeedBytes_crc bs (crcByte acc b)

theorem ckFeedBytes_append (c : Checksum) (xs ys : List Byte) :
    ckFeedBytes (ckFeedBytes c xs) ys = ckFeedBytes c (xs ++ ys) := (List.foldl_append ..).symm

/-- R84, R122: the checksum the block computes over some bytes, as a slot. -/
theorem ckSlot_value (m : CkMode) (bs : List Byte) : ckSlot (ckValue (ckFeedBytes (ckNew m) bs)) = checkSlot m bs := by
  cases m with
  | off => rw [ckNew, ckFeedBytes_off]; rfl
  | xor => rw [ckNew, ckFeedBytes_xor]; rfl
  | crc => rw [ckNew, ckFeedBytes_crc]; rfl

theorem writeMode_eq (b : Block) : b.writeMode = writeModeOf b.ckmode := by
  simp only [Block.writeMode, writeModeOf]
  cases b.ckmode <;> rfl

theorem readParts_eq (m : CkMode) (a : RegAddr) (p : List Byte) : readParts m a p.length = (Frame.read m a p).sent := by
  simp only [readParts, ckSlot_value, Frame.sent, readCmdByte_eq]

theorem readParts_eq_corrupt (m : CkMode) (a : RegAddr) (p : List Byte) (c : Byte) :
    readParts m a p.length = (Frame.corrupt m a p c).sent := by
  simp only [readParts, ckSlot_value, Frame.sent, readCmdByte_eq]

theorem writeParts_eq (m : CkMode) (a : RegAddr) (p : List Byte) : writeParts (writeModeOf m) a p = (Frame.write m a p).sent := by
  simp only [writeParts, ckSlot_value, Frame.sent, writeCmdByte_eq]

/-! Frames. -/

/-- A frame's transfers, one answer each. -/
theorem adcParts_ok : ∀ (parts : List (List Byte)) (as rest : List Answer) (b : Block),
    parts.length = as.length → as.all (fun a => !a.fails) = true → b.script = as ++ rest →
    adcParts parts b = .ok (List.zipWith (fun out a => fitBytes out.length a.bytes) parts as)
      { b with script := rest, ports := b.ports + as.length, hist := transferEvents parts as ++ b.hist }
  | [], [], rest, b, _, _, hs => by
    simp only [List.nil_append] at hs
    subst hs
    rfl
  | out :: parts, a :: as, rest, b, hl, hf, hs => by
    simp only [List.all_cons, Bool.and_eq_true, Bool.not_eq_true'] at hf
    have hn : b.nextAnswer = a := by simp only [Block.nextAnswer, hs, List.cons_append]
    have h1 : spiXfer .adc out b = .ok (fitBytes out.length a.bytes)
        (b.consumed.record (.spi .adc out (fitBytes out.length a.bytes))) := by
      rw [run_spiXfer, hn, hf.1]
      rfl
    have h2 := adcParts_ok parts as rest (b.consumed.record (.spi .adc out (fitBytes out.length a.bytes)))
      (by simpa using hl) (by simpa using hf.2) (by simp [hs])
    rw [adcParts, Cmd.run_bind_ok h1, Cmd.run_bind_ok h2]
    simp only [Cmd.run_pure, Block.record, Block.consumed, List.zipWith_cons_cons, transferEvents, List.append_assoc,
      List.cons_append, List.nil_append, List.length_cons, EStateM.Result.ok.injEq, true_and]
    congr 1
    omega
  | [], _ :: _, _, _, hl, _, _ => by simp at hl
  | _ :: _, [], _, _, hl, _, _ => by simp at hl

/-- R64: a frame whose transfers all succeed; the block must have the chip-select released before it. -/
theorem adcFrame_ok (parts : List (List Byte)) (as rest : List Answer) (b : Block) (hnss : b.nss = .high)
    (hl : parts.length = as.length) (hf : as.all (fun a => !a.fails) = true) (hs : b.script = as ++ rest) :
    adcFrame parts b = .ok (List.zipWith (fun out a => fitBytes out.length a.bytes) parts as)
      { b with
        script := rest, ports := b.ports + as.length
        hist := .pin .nssAdc .high :: (transferEvents parts as ++ [.pin .nssAdc .low]) ++ b.hist } := by
  have h := adcParts_ok parts as rest (b.drive .nssAdc .low) hl hf hs
  simp only [adcFrame, Cmd.run_bind, Cmd.run_pinSet, Cmd.run_onStop, h, Cmd.run_pure]
  simp only [Block.drive, Block.setPin, Block.record, List.append_assoc, List.cons_append, List.nil_append,
    EStateM.Result.ok.injEq, true_and]
  rw [← hnss]

/-! A conversation taken apart. -/

theorem answered_length : ∀ {rs : List (Option (List Byte))} {as : List Answer}, answered rs as = true → rs.length = as.length
  | [], [], _ => rfl
  | r :: rs, a :: as, h => by
    simp only [answered, Bool.and_eq_true] at h
    simp only [List.length_cons, answered_length h.2]
  | [], _ :: _, h => by simp [answered] at h
  | _ :: _, [], h => by simp [answered] at h

theorem answered_all : ∀ {rs : List (Option (List Byte))} {as : List Answer}, answered rs as = true →
    as.all (fun a => !a.fails) = true
  | [], [], _ => rfl
  | r :: rs, a :: as, h => by
    simp only [answered, Bool.and_eq_true] at h
    simp only [List.all_cons, Bool.and_eq_true]
    exact ⟨h.1.1, answered_all h.2⟩
  | [], _ :: _, h => by simp [answered] at h
  | _ :: _, [], h => by simp [answered] at h

theorem answered_append : ∀ {rs qs : List (Option (List Byte))} {as : List Answer}, answered (rs ++ qs) as = true →
    ∃ xs ys, as = xs ++ ys ∧ answered rs xs = true ∧ answered qs ys = true
  | [], qs, as, h => ⟨[], as, rfl, rfl, h⟩
  | r :: rs, qs, [], h => by simp [answered] at h
  | r :: rs, qs, a :: as, h => by
    simp only [List.cons_append, answered, Bool.and_eq_true] at h
    obtain ⟨xs, ys, rfl, h1, h2⟩ := answered_append h.2
    refine ⟨a :: xs, ys, rfl, ?_, h2⟩
    simp only [answered, Bool.and_eq_true]
    exact ⟨h.1, h1⟩

theorem checkSlot_length (m : CkMode) (xs ys : List Byte) : (checkSlot m xs).length = (checkSlot m ys).length := by
  cases m <;> rfl

/-- A frame has one answer for each slot sent. -/
theorem Frame.sent_length (t : RegTable) (f : Frame) (h : f.sound t = true) : f.sent.length = f.replies.length := by
  cases f with
  | reset => rfl
  | read m a p =>
    simp only [Frame.sent, Frame.replies, List.length_append, List.length_map, List.length_cons, List.length_nil]
    rw [checkSlot_length]
  | corrupt m a p c => cases m <;> first | rfl | simp [Frame.sound] at h
  | write m a p => simp only [Frame.sent, Frame.replies, List.length_append, List.length_map, List.length_cons, List.length_nil]

/-- R72: a conversation of a first frame and the others: the first frame's answers, then a conversation of the rest. -/
theorem converses_cons {b : Block} {f : Frame} {fs : List Frame} {as rest : List Answer} (h : converses b (f :: fs) as rest) :
    ∃ xs ys, as = xs ++ ys ∧ converses b [f] xs (ys ++ rest) ∧
      converses (afterFrames b [f] xs (ys ++ rest)) fs ys rest ∧ f.sent.length = xs.length := by
  obtain ⟨h1, h2, h3⟩ := h
  simp only [List.all_cons, Bool.and_eq_true] at h1
  rw [List.flatMap_cons] at h2
  obtain ⟨xs, ys, rfl, hx, hy⟩ := answered_append h2
  refine ⟨xs, ys, rfl, ⟨?_, ?_, ?_⟩, ⟨h1.2, hy, rfl⟩, ?_⟩
  · simp [h1.1]
  · simpa using hx
  · rw [h3, List.append_assoc]
  · rw [Frame.sent_length _ f h1.1, answered_length hx]

theorem framesEvents_cons (f : Frame) (fs : List Frame) (xs ys : List Answer) (h : f.sent.length = xs.length) :
    framesEvents (f :: fs) (xs ++ ys) = framesEvents fs ys ++ framesEvents [f] xs := by
  simp only [framesEvents, h, List.drop_left, List.take_left, List.nil_append, List.take_length]

/-- Two runs of frames are one. -/
theorem afterFrames_cons (b : Block) (f : Frame) (fs : List Frame) (xs ys rest mid : List Answer)
    (h : f.sent.length = xs.length) :
    afterFrames (afterFrames b [f] xs mid) fs ys rest = afterFrames b (f :: fs) (xs ++ ys) rest := by
  rw [afterFrames, afterFrames, afterFrames, framesEvents_cons f fs xs ys h]
  simp only [List.length_append, List.append_assoc, Nat.add_assoc]

/-- Frames change neither the parameters nor the checksum mode nor, ended, the chip-select. -/
@[simp] theorem afterFrames_cfg (b : Block) (fs : List Frame) (as rest : List Answer) : (afterFrames b fs as rest).cfg = b.cfg := rfl

@[simp] theorem afterFrames_regs (b : Block) (fs : List Frame) (as rest : List Answer) :
    (afterFrames b fs as rest).regs = b.regs := rfl

@[simp] theorem afterFrames_ckmode (b : Block) (fs : List Frame) (as rest : List Answer) :
    (afterFrames b fs as rest).ckmode = b.ckmode := rfl

@[simp] theorem afterFrames_nss (b : Block) (fs : List Frame) (as rest : List Answer) : (afterFrames b fs as rest).nss = b.nss := rfl

@[simp] theorem afterFrames_nil (b : Block) (rest : List Answer) (h : b.script = rest) : afterFrames b [] [] rest = b := by
  subst h; rfl

/-- A longer conversation in two parts. -/
theorem converses_append {b : Block} : ∀ {fs gs : List Frame} {as rest : List Answer}, converses b (fs ++ gs) as rest →
    ∃ xs ys, as = xs ++ ys ∧ converses b fs xs (ys ++ rest) ∧
      converses (afterFrames b fs xs (ys ++ rest)) gs ys rest ∧
      (∀ mid, afterFrames (afterFrames b fs xs mid) gs ys rest = afterFrames b (fs ++ gs) as rest)
  | [], gs, as, rest, h => by
    refine ⟨[], as, rfl, ⟨rfl, rfl, h.2.2⟩, ?_, fun mid => ?_⟩
    · exact ⟨h.1, h.2.1, rfl⟩
    · simp [afterFrames, framesEvents]
  | f :: fs, gs, as, rest, h => by
    obtain ⟨xs, ys, rfl, h1, h2, h3⟩ := converses_cons h
    obtain ⟨us, vs, rfl, h4, h5, h6⟩ := converses_append h2
    refine ⟨xs ++ us, vs, (List.append_assoc ..).symm, ⟨?_, ?_, ?_⟩, ⟨?_, h5.2.1, rfl⟩, fun mid => ?_⟩
    · simp only [List.all_cons, Bool.and_eq_true]
      exact ⟨by simpa using h1.1, h4.1⟩
    · rw [List.flatMap_cons]
      have ha := h1.2.1
      simp only [List.flatMap_cons, List.flatMap_nil, List.append_nil] at ha
      exact answered_join ha h4.2.1
    · rw [h1.2.2]; simp
    · exact h5.1
    · rw [← afterFrames_cons b f fs xs us mid (us ++ vs ++ rest) h3, h6 mid, afterFrames_cons b f (fs ++ gs) xs (us ++ vs) rest (us ++ vs ++ rest) h3]
      simp
where
  answered_join : ∀ {rs qs : List (Option (List Byte))} {xs ys : List Answer}, answered rs xs = true → answered qs ys = true →
      answered (rs ++ qs) (xs ++ ys) = true
    | [], _, [], _, _, h => h
    | r :: rs, qs, a :: as, ys, h1, h2 => by
      simp only [List.cons_append, answered, Bool.and_eq_true] at h1 ⊢
      exact ⟨h1.1, answered_join h1.2 h2⟩
    | [], _, _ :: _, _, h, _ => by simp [answered] at h
    | _ :: _, _, [], _, h, _ => by simp [answered] at h

/-! Register operations. -/

/-- R64: a frame of the conversation, sent. -/
theorem adcFrame_sent {b : Block} {f : Frame} {as rest : List Answer} (hn : b.nss = .high) (h : converses b [f] as rest) :
    adcFrame f.sent b =
      .ok (List.zipWith (fun out a => fitBytes out.length a.bytes) f.sent as) (afterFrames b [f] as rest) := by
  obtain ⟨hs, ha, hr⟩ := h
  simp only [List.all_cons, List.all_nil, Bool.and_true] at hs
  simp only [List.flatMap_cons, List.flatMap_nil, List.append_nil] at ha
  have hlen : f.sent.length = as.length := by rw [Frame.sent_length _ f hs, answered_length ha]
  rw [adcFrame_ok f.sent as rest b hn hlen (answered_all ha) hr]
  simp only [afterFrames, framesEvents, Frame.events, List.nil_append, hlen, List.take_length]

theorem ckValue_check (m : CkMode) (bs : List Byte) :
    ckValue (ckFeedBytes (ckNew m) bs) = (checkSlot m bs).head?.map (fun x => x.headD 0x00#8) := by
  rw [← ckSlot_value]
  cases ckValue (ckFeedBytes (ckNew m) bs) <;> rfl

/-- R129: the payload a frame's answers give. -/
theorem readPayload_eq (m : CkMode) (a : RegAddr) (p : List Byte) (x y : Answer) (zs : List Answer)
    (hy : p = y.bytes) :
    readPayload (List.zipWith (fun out a => fitBytes out.length a.bytes) (readParts m a p.length) (x :: y :: zs)) = p := by
  simp only [readParts, List.cons_append, List.nil_append, List.zipWith_cons_cons, readPayload, List.getD_cons_succ,
    List.getD_cons_zero, List.length_replicate, ← hy, fitBytes_self]

/-- R129: the check byte a frame's answers give, in a mode that has one. -/
theorem readCheck_eq (m : CkMode) (a : RegAddr) (p : List Byte) (x y z : Answer) (c : Byte) (hm : m ≠ .off) (hz : [c] = z.bytes) :
    readCheck m a (List.zipWith (fun out a => fitBytes out.length a.bytes) (readParts m a p.length) [x, y, z]) = some c := by
  rw [readCheck, ckValue_check, readParts_eq m a p]
  cases m with
  | off => exact absurd rfl hm
  | xor => simp [Frame.sent, checkSlot, ← hz, fitBytes]
  | crc => simp [Frame.sent, checkSlot, ← hz, fitBytes]

/-- R129: a read frame answered with its right checksum. -/
theorem readOnce_good {b : Block} {m : CkMode} {a : RegAddr} {p : List Byte} {as rest : List Answer} (hn : b.nss = .high)
    (hm : b.ckmode = m) (h : converses b [.read m a p] as rest) :
    readOnce a b = .ok (p, true) (afterFrames b [.read m a p] as rest) := by
  have hf := adcFrame_sent hn h
  rw [← readParts_eq m a p] at hf
  obtain ⟨hs, ha, -⟩ := h
  simp only [List.all_cons, List.all_nil, Bool.and_true, Frame.sound, beq_iff_eq] at hs
  simp only [List.flatMap_cons, List.flatMap_nil, List.append_nil, Frame.replies, List.cons_append, List.nil_append] at ha
  subst hm
  rcases as with _ | ⟨x, _ | ⟨y, zs⟩⟩
  · simp [answered] at ha
  · simp [answered] at ha
  simp only [answered, Bool.and_eq_true, Option.all_none, Option.all_some, beq_iff_eq] at ha
  obtain ⟨-, ⟨-, hy⟩, hz⟩ := ha
  have hw : lookReg (·.width a) b = .ok p.length b := by rw [hs]; rfl
  have hpay := readPayload_eq b.ckmode a p x y zs hy
  have hok : readOk b.ckmode a
      (List.zipWith (fun out a => fitBytes out.length a.bytes) (readParts b.ckmode a p.length) (x :: y :: zs)) = true := by
    simp only [readOk, hpay, ckFeedBytes_append, beq_iff_eq]
    rw [ckValue_check, readCmdByte_eq, List.cons_append, List.nil_append]
    cases hm : b.ckmode with
    | off => simp only [readCheck, ckValue_check, checkSlot, List.head?_nil, Option.map_none]
    | xor =>
      rw [hm] at hz
      rcases zs with _ | ⟨z, _ | ⟨z', zs⟩⟩
      · simp [checkSlot, answered] at hz
      · simp only [checkSlot, List.map_cons, List.map_nil, answered, Option.all_some, Bool.and_true, Bool.and_eq_true,
          beq_iff_eq] at hz
        rw [readCheck_eq .xor a p x y z _ (by decide) hz.2]
        rfl
      · simp [checkSlot, answered] at hz
    | crc =>
      rw [hm] at hz
      rcases zs with _ | ⟨z, _ | ⟨z', zs⟩⟩
      · simp [checkSlot, answered] at hz
      · simp only [checkSlot, List.map_cons, List.map_nil, answered, Option.all_some, Bool.and_true, Bool.and_eq_true,
          beq_iff_eq] at hz
        rw [readCheck_eq .crc a p x y z _ (by decide) hz.2]
        rfl
      · simp [checkSlot, answered] at hz
  rw [readOnce, Cmd.run_bind_ok (Cmd.run_look Block.readMode b), Block.readMode, Cmd.run_bind_ok hw, Cmd.run_bind_ok hf, Cmd.run_pure, hpay, hok]

/-- R129: a read frame answered with a wrong checksum. -/
theorem readOnce_corrupt {b : Block} {m : CkMode} {a : RegAddr} {p : List Byte} {c : Byte} {as rest : List Answer}
    (hn : b.nss = .high) (hm : b.ckmode = m) (h : converses b [.corrupt m a p c] as rest) :
    readOnce a b = .ok (p, false) (afterFrames b [.corrupt m a p c] as rest) := by
  have hf := adcFrame_sent hn h
  rw [← readParts_eq_corrupt m a p c] at hf
  obtain ⟨hs, ha, -⟩ := h
  simp only [List.all_cons, List.all_nil, Bool.and_true, Frame.sound, Bool.and_eq_true, beq_iff_eq, bne_iff_ne] at hs
  simp only [List.flatMap_cons, List.flatMap_nil, List.append_nil, Frame.replies] at ha
  subst hm
  rcases as with _ | ⟨x, _ | ⟨y, _ | ⟨z, _ | ⟨w, zs⟩⟩⟩⟩
  · simp [answered] at ha
  · simp [answered] at ha
  · simp [answered] at ha
  · simp only [answered, Bool.and_eq_true, Option.all_none, Option.all_some, beq_iff_eq] at ha
    obtain ⟨-, ⟨-, hy⟩, ⟨-, hz⟩, -⟩ := ha
    have hw : lookReg (·.width a) b = .ok p.length b := by rw [hs.1.1]; rfl
    have hpay := readPayload_eq b.ckmode a p x y [z] hy
    have hok : readOk b.ckmode a
        (List.zipWith (fun out a => fitBytes out.length a.bytes) (readParts b.ckmode a p.length) [x, y, z]) = false := by
      simp only [readOk, hpay, ckFeedBytes_append, beq_eq_false_iff_ne, readCheck_eq b.ckmode a p x y z c hs.1.2 hz]
      rw [ckValue_check, readCmdByte_eq, List.cons_append, List.nil_append]
      intro hc
      refine hs.2 ?_
      cases hm : b.ckmode with
      | off => exact absurd hm hs.1.2
      | xor => simpa [hm, checkSlot] using hc
      | crc => simpa [hm, checkSlot] using hc
    rw [readOnce, Cmd.run_bind_ok (Cmd.run_look Block.readMode b), Block.readMode, Cmd.run_bind_ok hw, Cmd.run_bind_ok hf, Cmd.run_pure, hpay, hok]
  · simp [answered] at ha

/-- R131: a write frame. -/
theorem writeOnce_sent {b : Block} {m : CkMode} {a : RegAddr} {p : List Byte} {as rest : List Answer} (hn : b.nss = .high)
    (hm : b.ckmode = m) (h : converses b [.write m a p] as rest) :
    writeOnce a p b = .ok () (afterFrames b [.write m a p] as rest) := by
  have hf := adcFrame_sent hn h
  rw [← writeParts_eq m a p, ← hm] at hf
  rw [writeOnce, Cmd.run_bind_ok (Cmd.run_look Block.writeMode b), writeMode_eq, Cmd.run_bind_ok hf, Cmd.run_pure, hm]

/-! Retry loops. -/

theorem mayRetry_fuel {b : Block} {n : Nat} (h : mayRetry b n) : n ≤ b.retryFuel := by
  unfold mayRetry at h
  unfold Block.retryFuel
  cases hl : b.cfg.retryLimit <;> simp only [hl] at h ⊢ <;> exact h

/-- R219: a turn that is to be retried, with budget left. -/
theorem retryFrom_again {α β : Type} {loop : LoopId} {body : β → Cmd (Turn α β)} {fuel count : Nat} {v v' : β} {b b' : Block}
    (h : body v b = .ok (.again v') b') (hb : ∀ limit, b'.cfg.retryLimit = some limit → count + 1 ≤ limit) :
    retryFrom loop body (fuel + 1) count v b = retryFrom loop body fuel (count + 1) v' b' := by
  rw [retryFrom, Cmd.run_bind_ok h]
  simp only [checkBudget, Cmd.run_bind, Cmd.run_look]
  cases hl : b'.cfg.retryLimit with
  | none => rfl
  | some limit =>
    have : ¬ limit < count + 1 := by have := hb limit hl; omega
    simp only [this, if_false, Cmd.run_pure]

/-- R219: a turn that ends the loop. -/
theorem retryFrom_done {α β : Type} {loop : LoopId} {body : β → Cmd (Turn α β)} {fuel count : Nat} {v : β} {a : α} {b b' : Block}
    (h : body v b = .ok (.done a) b') : retryFrom loop body fuel count v b = .ok a b' := by
  cases fuel <;> (rw [retryFrom, Cmd.run_bind_ok h]; rfl)

/-- R219: a turn that is to be retried when RETRY_LIMIT is used up. -/
theorem retryFrom_exhausted {α β : Type} {loop : LoopId} {body : β → Cmd (Turn α β)} {count : Nat} {v v' : β} {b b' : Block}
    (h : body v b = .ok (.again v') b') (hl : b'.cfg.retryLimit = some count) :
    retryFrom loop body 0 count v b = .error (.raised (.retriesExhausted loop)) b' := by
  rw [retryFrom, Cmd.run_bind_ok h]
  simp only [checkBudget, Cmd.run_bind, Cmd.run_look, hl, Nat.lt_succ_self, if_true, Cmd.run_raise]

/-- Log 5: a turn that is to be retried when this step's retries are used up. -/
theorem retryFrom_paused {α β : Type} {loop : LoopId} {body : β → Cmd (Turn α β)} {count : Nat} {v v' : β} {b b' : Block}
    (h : body v b = .ok (.again v') b') (hl : b'.cfg.retryLimit = none) :
    retryFrom loop body 0 count v b = .error .paused b' := by
  rw [retryFrom, Cmd.run_bind_ok h]
  simp only [checkBudget, Cmd.run_bind, Cmd.run_look, hl, Cmd.run_pure, Cmd.run_pause]

/-- A loop that does not depend on the retries it may still make: started with n retries of budget. -/
theorem retryLoop_eq {α β : Type} (loop : LoopId) (body : β → Cmd (Turn α β)) (v : β) (b : Block) :
    retryLoop loop body v b = retryFrom loop body b.retryFuel 0 v b := rfl

/-- R130: one accepted turn of a register read. -/
theorem readTurn_good {b : Block} {m : CkMode} {a : RegAddr} {p : List Byte} {as rest : List Answer} (hn : b.nss = .high)
    (hm : b.ckmode = m) (h : converses b [.read m a p] as rest) :
    readTurn a () b = .ok (.done p) (afterFrames b [.read m a p] as rest) := by
  rw [readTurn, Cmd.run_bind_ok (readOnce_good hn hm h)]
  rfl

/-- R130: one refused turn of a register read. -/
theorem readTurn_corrupt {b : Block} {m : CkMode} {a : RegAddr} {p : List Byte} {c : Byte} {as rest : List Answer}
    (hn : b.nss = .high) (hm : b.ckmode = m) (h : converses b [.corrupt m a p c] as rest) :
    readTurn a () b = .ok (.again ()) (afterFrames b [.corrupt m a p c] as rest).bumpRead := by
  rw [readTurn, Cmd.run_bind_ok (readOnce_corrupt hn hm h)]
  rfl

/-- R130: a register read accepted at once. -/
theorem readReg_good {b : Block} {m : CkMode} {a : RegAddr} {p : List Byte} {as rest : List Answer} (hn : b.nss = .high)
    (hm : b.ckmode = m) (h : converses b [.read m a p] as rest) :
    readReg a b = .ok p (afterFrames b [.read m a p] as rest) := by
  rw [readReg, retryLoop_eq]
  exact retryFrom_done (readTurn_good hn hm h)

/-- R130 with R58. -/
theorem readValue_good {b : Block} {m : CkMode} {a : RegAddr} {p : List Byte} {as rest : List Answer} (hn : b.nss = .high)
    (hm : b.ckmode = m) (h : converses b [.read m a p] as rest) :
    readValue a b = .ok (be p) (afterFrames b [.read m a p] as rest) := by
  rw [readValue, Cmd.run_bind_ok (readReg_good hn hm h)]
  rfl

/-- R87: STATUS read. -/
theorem readStatus_good {b : Block} {m : CkMode} {st : List Byte} {as rest : List Answer} (hn : b.nss = .high)
    (hm : b.ckmode = m) (h : converses b [.read m b.regs.status st] as rest) :
    readStatus b = .ok (be st) (afterFrames b [.read m b.regs.status st] as rest) := readValue_good hn hm h

/-- R132: a write whose readback agrees at once. -/
theorem writeReg_good {b : Block} {m : CkMode} {a : RegAddr} {p : List Byte} {as rest : List Answer} (hn : b.nss = .high)
    (hm : b.ckmode = m) (h : converses b [.write m a p, .read m a p] as rest) :
    writeReg a p b = .ok () (afterFrames b [.write m a p, .read m a p] as rest) := by
  obtain ⟨xs, ys, rfl, h1, h2, h3⟩ := converses_cons h
  have hw := writeOnce_sent hn hm h1
  have hr := readReg_good (b := afterFrames b [.write m a p] xs (ys ++ rest)) hn hm h2
  rw [afterFrames_cons b _ _ xs ys rest _ h3] at hr
  rw [writeReg, retryLoop_eq]
  refine retryFrom_done ?_
  rw [writeTurn, Cmd.run_bind_ok hw, Cmd.run_bind_ok hr, if_pos rfl]
  rfl

/-- R132: a turn whose readback disagrees. -/
theorem writeTurn_mismatch {b : Block} {m : CkMode} {a : RegAddr} {p q : List Byte} {as rest : List Answer} (hn : b.nss = .high)
    (hm : b.ckmode = m) (hq : q ≠ p) (h : converses b [.write m a p, .read m a q] as rest) :
    writeTurn a p () b = .ok (.again ()) (afterFrames b [.write m a p, .read m a q] as rest).bumpWrite := by
  obtain ⟨xs, ys, rfl, h1, h2, h3⟩ := converses_cons h
  have hw := writeOnce_sent hn hm h1
  have hr := readReg_good (b := afterFrames b [.write m a p] xs (ys ++ rest)) hn hm h2
  rw [afterFrames_cons b _ _ xs ys rest _ h3] at hr
  rw [writeTurn, Cmd.run_bind_ok hw, Cmd.run_bind_ok hr, if_neg hq]
  rfl

/-- R133: a read-modify-write, every access accepted at once. -/
theorem updateReg_good {b : Block} {m : CkMode} {a : RegAddr} {p : List Byte} {f : BitVec 32 → BitVec 32}
    {as rest : List Answer} (hn : b.nss = .high) (hm : b.ckmode = m) (h : converses b (updateFrames m a p f) as rest) :
    updateReg a f b = .ok (be (bytesBe p.length (f (be p)))) (afterFrames b (updateFrames m a p f) as rest) := by
  obtain ⟨xs, ys, rfl, h1, h2, h3⟩ := converses_cons h
  have hl : b.regs.width a = p.length := by
    have hs := h1.1
    simp only [List.all_cons, List.all_nil, Bool.and_true, Frame.sound, beq_iff_eq] at hs
    exact hs.symm
  have hr := readReg_good hn hm h1
  have hw := writeReg_good (b := afterFrames b [.read m a p] xs (ys ++ rest)) hn hm h2
  rw [afterFrames_cons b _ _ xs ys rest _ h3, ← hl] at hw
  rw [updateReg, Cmd.run_bind_ok hr, ← hl]
  show (writeReg a (bytesBe (b.regs.width a) (f (be p))) >>= fun _ => pure _) _ = _
  rw [Cmd.run_bind_ok hw]
  rw [updateFrames, ← hl]
  rfl

/-- R135: the reset frame and the local mode after it. -/
theorem resetAdc_sent {b : Block} {as rest : List Answer} (hn : b.nss = .high) (h : converses b [.reset] as rest) :
    resetAdc b = .ok () ((afterFrames b [.reset] as rest).setCkmode .off) := by
  have hf := adcFrame_sent hn h
  rw [Frame.sent] at hf
  rw [resetAdc, Cmd.run_bind_ok hf]
  rfl

end Sys2Proof.Machine
end

