-- ==== Sys2Proof/Laws/Bits.lean ====
section
/-! SUPPORT. Register fields: the model's field reads and writes are those the claims name (`fieldOf`, `withFields`), and what a
field write does to each bit. -/

namespace Sys2Proof.Machine

open Safety

theorem mergeBits_getLsbD (mask value old : BitVec 32) (n : Nat) :
    (mergeBits mask value old).getLsbD n = if mask.getLsbD n then value.getLsbD n else old.getLsbD n := by
  simp only [mergeBits, BitVec.getLsbD_or, BitVec.getLsbD_and, BitVec.getLsbD_not]
  by_cases h : n < 32
  · cases mask.getLsbD n <;> simp [h]
  · have h1 : mask.getLsbD n = false := BitVec.getLsbD_of_ge _ _ (by omega)
    have h2 : old.getLsbD n = false := BitVec.getLsbD_of_ge _ _ (by omega)
    simp [h1, h2]

theorem mergeBits_eq_withBits (mask value old : BitVec 32) : mergeBits mask value old = withBits mask value old := rfl

/-! One field. -/

/-- A field read. -/
theorem getField_eq (f : BitField) (v : BitVec 32) : getField f v = fieldOf f v := by
  simp [getField, fieldOf, BitVec.extractLsb'_toNat]

/-- The mask of a field. -/
theorem fieldMask_eq (hi lo : Nat) :
    fieldMask hi lo = (BitVec.allOnes (hi + 1 - lo)).setWidth 32 <<< lo := by
  apply BitVec.eq_of_toNat_eq
  simp [fieldMask, BitVec.toNat_allOnes, Nat.shiftLeft_eq, Nat.mod_mul_mod]

/-- The bits of a field's mask. -/
theorem fieldMask_getLsbD (hi lo n : Nat) :
    (fieldMask hi lo).getLsbD n = (decide (n < 32) && decide (lo ≤ n) && decide (n ≤ hi)) := by
  rw [fieldMask_eq]
  simp only [BitVec.getLsbD_shiftLeft, BitVec.getLsbD_setWidth, BitVec.getLsbD_allOnes]
  rw [Bool.eq_iff_iff]
  simp only [Bool.and_eq_true, Bool.not_eq_true', decide_eq_true_eq, decide_eq_false_iff_not]
  omega

/-- A field write. -/
theorem setField_eq (f : BitField) (x : Nat) (v : BitVec 32) :
    setField f.hi f.lo x v = withBits ((BitVec.allOnes (f.hi + 1 - f.lo)).setWidth 32 <<< f.lo) (BitVec.ofNat 32 x <<< f.lo) v := by
  rw [setField, fieldMask_eq, mergeBits_eq_withBits]
  congr 1
  apply BitVec.eq_of_toNat_eq
  simp [Nat.shiftLeft_eq, Nat.mod_mul_mod]

/-- R127: a field write, bit by bit. -/
theorem setField_getLsbD (hi lo x n : Nat) (v : BitVec 32) : (setField hi lo x v).getLsbD n =
    if n < 32 ∧ lo ≤ n ∧ n ≤ hi then x.testBit (n - lo) else v.getLsbD n := by
  rw [setField, mergeBits_getLsbD, fieldMask_getLsbD]
  by_cases h : n < 32 ∧ lo ≤ n ∧ n ≤ hi
  · rw [if_pos h, if_pos (by simp [h])]
    rw [BitVec.getLsbD_ofNat, Nat.testBit_mul_two_pow]
    simp [h.1, h.2.1]
  · rw [if_neg h, if_neg (by simpa [and_assoc] using h)]

/-! Several fields. -/

/-- R127, R134: the model's field writes are those the claims name. -/
theorem setFields_eq (l : List (BitField × Nat)) : ∀ v : BitVec 32, setFields l v = withFields l v := by
  induction l with
  | nil => exact fun _ => rfl
  | cons e l ih =>
    intro v
    rw [setFields, List.foldl_cons, ← setFields, ih, setField_eq]
    rfl

/-- R134: field writes keep every bit outside the fields. -/
theorem setFields_outside (l : List (BitField × Nat)) (n : Nat) :
    ∀ v : BitVec 32, outside n (l.map (·.1)) → (setFields l v).getLsbD n = v.getLsbD n := by
  induction l with
  | nil => exact fun _ _ => rfl
  | cons e l ih =>
    intro v h
    have he := h e.1 (List.mem_cons_self ..)
    rw [setFields, List.foldl_cons, ← setFields, ih _ (fun f hf => h f (List.mem_cons_of_mem _ hf)), setField_getLsbD, if_neg]
    omega

/-! The registers of the block. -/

/-- R55: the indexed registers' addresses. -/
theorem regIndexed_eq (base : RegAddr) (i : Ch) : regIndexed base i = base + chNumber i := by
  cases i
  · exact (BitVec.add_zero base).symm
  · rfl

/-- R87. -/
theorem statusReady_eq (t : RegTable) (st : List Byte) : t.statusReady (be st) = isReady t st := by
  simp only [RegTable.statusReady, isReady, getField_eq]

/-- R87. -/
theorem statusChannel_eq (t : RegTable) (v : BitVec 32) : t.statusChannel v = fieldOf t.channel v := getField_eq _ _

/-- R28, R91. -/
theorem ofFamily_eq (c : Params) (id : BitVec 16) : c.ofFamily id = isFamily c id := by
  simp only [Params.ofFamily, RegTable.family, isFamily, getField_eq]

/-- R94. -/
theorem isBipolar_eq (t : RegTable) (v : BitVec 32) : t.isBipolar v = decide (fieldOf t.biUnipolar v = 1) := by
  rw [RegTable.isBipolar, getField_eq]
  rfl

/-- R137: IFMODE.CRC_EN. -/
theorem setCrcEn_eq (t : RegTable) (m : CkMode) : t.setCrcEn m = withCrcEn t m := by
  funext v
  rw [RegTable.setCrcEn, setFields_eq]
  cases m <;> rfl

/-- R95, R141. -/
theorem postfilterOf_eq (T : AdcTables) (v : BitVec 32) : (T.postfilterOf v).map (·.setWidth 32) = postfilterReport T v := by
  simp only [AdcTables.postfilterOf, postfilterReport, getField_eq]
  by_cases h : fieldOf T.regs.enhFiltEn v = 1
  · simp only [h, if_true, true_and]
    generalize fieldOf T.regs.enhFilt v = k
    induction T.postfilters with
    | nil => simp
    | cons e l ih =>
      by_cases he : e.1.toNat = k
      · subst he
        simp
      · simp only [List.map_cons, List.find?_cons, beq_eq_false_iff_ne.mpr he, List.mem_cons, Ne.symm he, false_or]
        exact ih
  · simp [h]

end Sys2Proof.Machine
end

