-- ==== Sys2Proof/Laws/Dac.lean ====
section
/-! SUPPORT. What a DAC frame and a feedback sample do, once: the bytes, the events, and the state after each way they can end. -/

namespace Sys2Proof.Machine

open Safety

/-- R100, R154: the packing formula gives the bytes of the word 0000 v 00. -/
theorem dacPack_eq (v : DacCode) : dacPack v = dacBytes v := by
  simp only [dacPack, dacBytes, List.cons.injEq, and_true]
  refine ⟨?_, ?_, ?_⟩ <;>
  · apply BitVec.eq_of_getLsbD_eq
    intro i hi
    simp only [BitVec.getLsbD_setWidth, BitVec.getLsbD_ushiftRight, BitVec.getLsbD_shiftLeft, BitVec.getLsbD_extractLsb',
      BitVec.getLsbD_append]
    rcases i with _ | _ | _ | _ | _ | _ | _ | _ | i
    all_goals first
      | omega
      | simp

theorem nextAnswer_cons {b : Block} {a : Answer} {rest : List Answer} (h : b.script = a :: rest) : b.nextAnswer = a := by
  rw [Block.nextAnswer, h]

/-- R156: a DAC frame whose transfer succeeds, with the code recorded after it (R155). -/
theorem writeDac_ok {b : Block} {ch : Ch} {v : DacCode} {a : Answer} {rest : List Answer} (ha : a.fails = false)
    (h : b.script = a :: rest) : writeDac ch v b = .ok () (afterDac b ch v a rest) := by
  have hlen : (dacBytes v).length = 3 := rfl
  cases hi : b.cfg.syncIdle.get ch with
  | high =>
    simp only [writeDac, dacFrame, dacPack_eq, Cmd.run_bind, Cmd.run_look, hi, Cmd.run_pinSet, Cmd.run_onStop, run_spiXfer,
      Block.nextAnswer, Block.drive_sync_script, h, ha, Bool.false_eq_true, if_false, Cmd.run_update, Cmd.run_updateCh]
    simp [afterDac, dacEvents, hi, hlen, Block.drive, Block.setPin, Block.record, Block.consumed, Block.updCh, h]
  | low =>
    simp only [writeDac, dacFrame, dacPack_eq, Cmd.run_bind, Cmd.run_look, hi, Cmd.run_pinSet, run_spiXfer,
      Block.nextAnswer, Block.drive_sync_script, h, ha, Bool.false_eq_true, if_false, Cmd.run_update, Cmd.run_updateCh]
    simp [afterDac, dacEvents, hi, hlen, Block.drive, Block.setPin, Block.record, Block.consumed, Block.updCh, h]

/-- R156, R216: a DAC frame whose transfer fails: the sync pin is returned to its idle level and nothing else is written. -/
theorem writeDac_fail {b : Block} {ch : Ch} {v : DacCode} {a : Answer} {rest : List Answer} (ha : a.fails = true)
    (h : b.script = a :: rest) :
    writeDac ch v b = .error (.raised (.transport (.dac ch))) (afterDacFail b ch v rest) := by
  cases hi : b.cfg.syncIdle.get ch with
  | high =>
    simp only [writeDac, dacFrame, dacPack_eq, Cmd.run_bind, Cmd.run_look, hi, Cmd.run_pinSet, Cmd.run_onStop, run_spiXfer,
      Block.nextAnswer, Block.drive_sync_script, h, ha, if_true]
    simp [afterDacFail, dacFailEvents, hi, Block.drive, Block.setPin, Block.record, Block.consumed, h]
  | low =>
    simp only [writeDac, dacFrame, dacPack_eq, Cmd.run_bind, Cmd.run_look, hi, Cmd.run_pinSet, run_spiXfer,
      Block.nextAnswer, Block.drive_sync_script, h, ha, if_true]
    simp [afterDacFail, dacFailEvents, hi, Block.drive, Block.setPin, Block.record, Block.consumed, h]

/-- R205: the driver enable driven. -/
theorem setTecEn_run (ch : Ch) (f : Bool) (b : Block) : setTecEn ch f b = .ok () (afterTec b ch f) := by
  cases f <;> rfl

/-- One feedback sample answered. -/
theorem fbSample_ok {b : Block} {ch : Ch} {src : FbSource} {a : Answer} {rest : List Answer} (ha : a.fails = false)
    (h : b.script = a :: rest) :
    fbSample ch src b = .ok a.volts { b with script := rest, ports := b.ports + 1, hist := .fb ch src a.volts :: b.hist } := by
  simp [run_fbSample, Block.nextAnswer, h, ha, Block.record, Block.consumed]

/-- R209: the STAB loop from the sample a on, over samples that settle at v within the retries left. -/
theorem stab_from {ch : Ch} {src : FbSource} {v : F64} {rest : List Answer} :
    ∀ (later : List Answer) (a : Answer) (fuel count : Nat) (b : Block),
      settlesAt b.cfg.calTol v (a :: later) = true → b.script = later ++ rest → later.length - 1 ≤ fuel →
      (∀ limit, b.cfg.retryLimit = some limit → count + (later.length - 1) ≤ limit) →
      retryFrom .stab (stableTurn ch src) fuel count a.volts b =
        .ok v { b with script := rest, ports := b.ports + later.length, hist := sampleEvents ch src later ++ b.hist }
  | [], _, _, _, _ => fun hs => by simp [settlesAt] at hs
  | c :: later, a, fuel, count, b => by
    intro hs hscript hfuel hlimit
    rw [settlesAt, Bool.and_eq_true] at hs
    have hcf : c.fails = false := by
      have h2 := hs.2
      split at h2
      · simp only [Bool.and_eq_true, Bool.not_eq_true'] at h2
        exact h2.1.1
      · cases later with
        | nil => simp [settlesAt] at h2
        | cons d later =>
          rw [settlesAt, Bool.and_eq_true] at h2
          simpa using h2.1
    have hfb := fbSample_ok (ch := ch) (src := src) hcf (b := b) (rest := later ++ rest) (by simpa using hscript)
    by_cases hc : F64.lt (F64.abs (F64.sub c.volts a.volts)) b.cfg.calTol = true
    · have h2 := hs.2
      rw [if_pos hc] at h2
      simp only [Bool.and_eq_true, List.isEmpty_iff, beq_iff_eq] at h2
      obtain ⟨⟨-, rfl⟩, rfl⟩ := h2
      have hturn : stableTurn ch src a.volts b =
          .ok (.done c.volts) { b with script := rest, ports := b.ports + 1, hist := .fb ch src c.volts :: b.hist } := by
        rw [stableTurn, Cmd.run_bind_ok hfb, Cmd.run_bind_ok (Cmd.run_look _ _), if_pos hc]
        rfl
      cases fuel <;> (rw [retryFrom, Cmd.run_bind_ok hturn]; rfl)
    · have h2 := hs.2
      rw [if_neg hc] at h2
      have hlen : 1 ≤ later.length := by
        cases later with
        | nil => simp [settlesAt] at h2
        | cons d later => simp
      have hturn : stableTurn ch src a.volts b =
          .ok (.again c.volts)
            { b with script := later ++ rest, ports := b.ports + 1, hist := .fb ch src c.volts :: b.hist } := by
        rw [stableTurn, Cmd.run_bind_ok hfb, Cmd.run_bind_ok (Cmd.run_look _ _), if_neg hc]
        rfl
      simp only [List.length_cons] at hfuel hlimit
      obtain ⟨fuel, rfl⟩ : ∃ n, fuel = n + 1 := ⟨fuel - 1, by omega⟩
      have hbudget : checkBudget .stab count
          { b with script := later ++ rest, ports := b.ports + 1, hist := .fb ch src c.volts :: b.hist } =
          .ok () { b with script := later ++ rest, ports := b.ports + 1, hist := .fb ch src c.volts :: b.hist } := by
        rw [checkBudget, Cmd.run_bind_ok (Cmd.run_look _ _)]
        cases hl : b.cfg.retryLimit with
        | none => rfl
        | some limit =>
          have := hlimit limit hl
          show (if limit < count + 1 then _ else _ : Cmd Unit) _ = _
          rw [if_neg (by omega)]
          rfl
      rw [retryFrom, Cmd.run_bind_ok hturn]
      show (checkBudget .stab count >>= fun _ => retryFrom .stab (stableTurn ch src) fuel (count + 1) c.volts) _ = _
      rw [Cmd.run_bind_ok hbudget]
      have ih := stab_from (ch := ch) (src := src) later c fuel (count + 1)
        { b with script := later ++ rest, ports := b.ports + 1, hist := .fb ch src c.volts :: b.hist } h2 rfl (by omega)
        (fun limit hl => by have := hlimit limit hl; omega)
      rw [ih]
      simp [sampleEvents]
      omega

/-- R209: samples that settle at v within the retry budget. -/
theorem stable_settles {b : Block} {ch : Ch} {src : FbSource} {v : F64} {as rest : List Answer} (h : b.script = as ++ rest)
    (hs : settlesAt b.cfg.calTol v as = true) (hb : mayRetry b (as.length - 2)) :
    stable ch src b =
      .ok v { b with script := rest, ports := b.ports + as.length, hist := sampleEvents ch src as ++ b.hist } := by
  cases as with
  | nil => simp [settlesAt] at hs
  | cons a later =>
    have ha : a.fails = false := by
      cases later with
      | nil => simp [settlesAt] at hs
      | cons c later =>
        rw [settlesAt, Bool.and_eq_true] at hs
        simpa using hs.1
    rw [stable, Cmd.run_bind_ok (fbSample_ok ha (rest := later ++ rest) (by simpa using h)), retryLoop,
      Cmd.run_bind_ok (Cmd.run_look _ _)]
    have hrun := stab_from (ch := ch) (src := src) (rest := rest) later a b.retryFuel 0
      { b with script := later ++ rest, ports := b.ports + 1, hist := .fb ch src a.volts :: b.hist } hs rfl ?_ ?_
    · refine hrun.trans ?_
      simp [sampleEvents]
      omega
    · simp only [mayRetry, List.length_cons] at hb
      simp only [Block.retryFuel]
      cases hl : b.cfg.retryLimit <;> simp only [hl] at hb ⊢ <;> omega
    · intro limit hl
      have hl' : b.cfg.retryLimit = some limit := hl
      simp only [mayRetry, List.length_cons, hl'] at hb
      omega

end Sys2Proof.Machine
end

