-- ==== Sys2Proof/Laws/Engine.lean ====
section
/-! SUPPORT. Once for each shared operation above the port primitives: it stays within every relation that its own frames and
updates stay within (`Cmd.Within`), however it ends. A claim about all instructions chooses the relation. -/

namespace Sys2Proof.Machine

/-- What a relation and its stops must admit for the ADC engine's reads: frames, the read counter, the two ways a retry loop
stops. -/
structure Cmd.Reads (R : Block → Block → Prop) (E : Block → Stop → Prop) : Prop where
  F : Cmd.Frame R E
  exhausted : ∀ b loop limit, b.cfg.retryLimit = some limit → E b (.raised (.retriesExhausted loop))
  paused : ∀ b, b.cfg.retryLimit = none → E b .paused
  limit : ∀ b b', R b b' → b'.cfg.retryLimit = b.cfg.retryLimit
  frame : ∀ parts, (adcFrame parts).Within R E
  bump : ∀ b, R b b.bumpRead

namespace Cmd.Reads

variable {α β : Type} {R : Block → Block → Prop} {E : Block → Stop → Prop}

/-- A retry loop stays within what its turns stay within. -/
theorem retry (h : Cmd.Reads R E) {loop : LoopId} {body : β → Cmd (Turn α β)} {v : β} (hb : ∀ v, (body v).Within R E) :
    (retryLoop loop body v).Within R E :=
  Cmd.Within.retryLoop h.F hb (fun b l hl => h.exhausted b loop l hl) h.paused h.limit

theorem within_readOnce (h : Cmd.Reads R E) (a : RegAddr) : (readOnce a).Within R E :=
  Cmd.Within.bind h.F (Cmd.Within.look h.F _) (fun _ =>
    Cmd.Within.bind h.F (Cmd.Within.look h.F _) (fun _ =>
      Cmd.Within.bind h.F (h.frame _) (fun _ => Cmd.Within.pure h.F _)))

theorem within_readTurn (h : Cmd.Reads R E) (a : RegAddr) : (readTurn a ()).Within R E := by
  refine Cmd.Within.bind h.F (h.within_readOnce a) (fun r => ?_)
  obtain ⟨p, ok⟩ := r
  cases ok
  · exact Cmd.Within.bind h.F (Cmd.Within.update h.bump) (fun _ => Cmd.Within.pure h.F _)
  · exact Cmd.Within.pure h.F _

/-- R130. -/
theorem within_readReg (h : Cmd.Reads R E) (a : RegAddr) : (readReg a).Within R E :=
  h.retry (fun _ => h.within_readTurn a)

theorem within_readValue (h : Cmd.Reads R E) (a : RegAddr) : (readValue a).Within R E :=
  Cmd.Within.bind h.F (h.within_readReg a) (fun _ => Cmd.Within.pure h.F _)

theorem within_readStatus (h : Cmd.Reads R E) : readStatus.Within R E :=
  Cmd.Within.bind h.F (Cmd.Within.look h.F _) (fun _ => h.within_readValue _)

theorem within_writeOnce (h : Cmd.Reads R E) (a : RegAddr) (p : List Byte) : (writeOnce a p).Within R E :=
  Cmd.Within.bind h.F (Cmd.Within.look h.F _) (fun _ =>
    Cmd.Within.bind h.F (h.frame _) (fun _ => Cmd.Within.pure h.F _))

/-- R132. -/
theorem within_writeReg (h : Cmd.Reads R E) (hw : ∀ b, R b b.bumpWrite) (a : RegAddr) (p : List Byte) :
    (writeReg a p).Within R E := by
  refine h.retry (fun _ => ?_)
  refine Cmd.Within.bind h.F (h.within_writeOnce a p) (fun _ => ?_)
  refine Cmd.Within.bind h.F (h.within_readReg a) (fun rb => ?_)
  by_cases hrb : rb = p
  · rw [if_pos hrb]
    exact Cmd.Within.pure h.F _
  · rw [if_neg hrb]
    exact Cmd.Within.bind h.F (Cmd.Within.update hw) (fun _ => Cmd.Within.pure h.F _)

/-- R133. -/
theorem within_updateReg (h : Cmd.Reads R E) (hw : ∀ b, R b b.bumpWrite) (a : RegAddr) (f : BitVec 32 → BitVec 32) :
    (updateReg a f).Within R E :=
  Cmd.Within.bind h.F (h.within_readReg a) (fun _ =>
    Cmd.Within.bind h.F (Cmd.Within.look h.F _) (fun _ =>
      Cmd.Within.bind h.F (h.within_writeReg hw a _) (fun _ => Cmd.Within.pure h.F _)))

/-- R135. -/
theorem within_resetAdc (h : Cmd.Reads R E) (hm : ∀ b, R b (b.setCkmode .off)) : resetAdc.Within R E :=
  Cmd.Within.bind h.F (h.frame _) (fun _ => Cmd.Within.update hm)

/-- R136: an ID is stored only when its family is the expected one. -/
theorem within_identify (h : Cmd.Reads R E) (hb : ∀ b, R b b.bumpId)
    (hs : ∀ (b : Block) (id : BitVec 16), b.cfg.ofFamily id = true → R b (b.setAdcId id)) :
    identify.Within R E := by
  refine h.retry (fun _ => ?_)
  refine Cmd.Within.bind h.F (Cmd.Within.look h.F _) (fun a => ?_)
  refine Cmd.Within.bind h.F (h.within_readValue _) (fun v => ?_)
  intro b
  simp only [Cmd.run_bind, Cmd.run_look]
  cases hc : b.cfg.ofFamily (v.setWidth 16)
  · exact hb b
  · exact hs b _ hc

/-- R137. -/
theorem within_setChecksumMode (h : Cmd.Reads R E) (hw : ∀ b, R b b.bumpWrite) (m : CkMode)
    (hm : ∀ b, R b (b.setCkmode m)) : (setChecksumMode m).Within R E :=
  Cmd.Within.bind h.F (Cmd.Within.look h.F _) (fun _ =>
    Cmd.Within.bind h.F (h.within_updateReg hw _ _) (fun _ => Cmd.Within.update hm))

/-- R138. -/
theorem within_setupChannel (h : Cmd.Reads R E) (hw : ∀ b, R b b.bumpWrite) (i : Ch) (p n : BitVec 5) :
    (setupChannel i p n).Within R E :=
  Cmd.Within.bind h.F (Cmd.Within.look h.F _) (fun _ =>
    Cmd.Within.bind h.F (Cmd.Within.look h.F _) (fun _ =>
      Cmd.Within.bind h.F (h.within_updateReg hw _ _) (fun _ =>
        Cmd.Within.bind h.F (h.within_updateReg hw _ _) (fun _ =>
          Cmd.Within.bind h.F (h.within_updateReg hw _ _) (fun _ => Cmd.Within.pure h.F _)))))

/-- R139: the ready wait. -/
theorem within_poll (h : Cmd.Reads R E) : (retryLoop .poll pollTurn ()).Within R E := by
  refine h.retry (fun _ => ?_)
  refine Cmd.Within.bind h.F h.within_readStatus (fun s => ?_)
  refine Cmd.Within.bind h.F (Cmd.Within.look h.F _) (fun ready => ?_)
  cases ready
  · exact Cmd.Within.pure h.F _
  · exact Cmd.Within.pure h.F _

/-- R139. -/
theorem within_calibrateOffset (h : Cmd.Reads R E) (hw : ∀ b, R b b.bumpWrite) : calibrateOffset.Within R E :=
  Cmd.Within.bind h.F (Cmd.Within.look h.F _) (fun _ =>
    Cmd.Within.bind h.F (h.within_updateReg hw _ _) (fun _ =>
      Cmd.Within.bind h.F h.within_poll (fun _ =>
        Cmd.Within.bind h.F (h.within_updateReg hw _ _) (fun _ => Cmd.Within.pure h.F _))))

theorem within_readCal (h : Cmd.Reads R E) (i : Ch) : (readCal i).Within R E :=
  Cmd.Within.bind h.F (Cmd.Within.look h.F _) (fun _ =>
    Cmd.Within.bind h.F (h.within_readValue _) (fun _ =>
      Cmd.Within.bind h.F (h.within_readValue _) (fun _ =>
        Cmd.Within.bind h.F (h.within_readValue _) (fun _ => Cmd.Within.pure h.F _))))

/-- R140. -/
theorem within_getCalibration (h : Cmd.Reads R E) (i : Ch)
    (hc : ∀ (b : Block) (k : AdcCal), R b (b.updCh i (Channel.captureCal k))) : (getCalibration i).Within R E :=
  Cmd.Within.bind h.F (h.within_readCal i) (fun k =>
    Cmd.Within.bind h.F (Cmd.Within.update (fun b => hc b k)) (fun _ => Cmd.Within.pure h.F _))

/-- R147. -/
theorem within_adcInit (h : Cmd.Reads R E) (hw : ∀ b, R b b.bumpWrite) (hm : ∀ b m, R b (b.setCkmode m))
    (hb : ∀ b, R b b.bumpId)
    (hs : ∀ (b : Block) (id : BitVec 16), b.cfg.ofFamily id = true → R b (b.setAdcId id))
    (hc : ∀ (b : Block) (i : Ch) (k : AdcCal), R b (b.updCh i (Channel.captureCal k)))
    (hp : ∀ b p, R b (b.setPhase p)) : adcInit.Within R E := by
  refine Cmd.Within.bind h.F (Cmd.Within.update (fun b => hp b _)) (fun _ => ?_)
  refine Cmd.Within.bind h.F (h.within_resetAdc (fun b => hm b _)) (fun _ => ?_)
  refine Cmd.Within.bind h.F (Cmd.Within.update (fun b => hp b _)) (fun _ => ?_)
  refine Cmd.Within.bind h.F (h.within_identify hb hs) (fun _ => ?_)
  refine Cmd.Within.bind h.F (Cmd.Within.update (fun b => hp b _)) (fun _ => ?_)
  refine Cmd.Within.bind h.F (Cmd.Within.look h.F _) (fun _ => ?_)
  refine Cmd.Within.bind h.F (h.within_setChecksumMode hw _ (fun b => hm b _)) (fun _ => ?_)
  refine Cmd.Within.bind h.F (Cmd.Within.update (fun b => hp b _)) (fun _ => ?_)
  refine Cmd.Within.bind h.F (Cmd.Within.look h.F _) (fun _ => ?_)
  refine Cmd.Within.bind h.F (h.within_setupChannel hw _ _ _) (fun _ => ?_)
  refine Cmd.Within.bind h.F (h.within_setupChannel hw _ _ _) (fun _ => ?_)
  refine Cmd.Within.bind h.F (Cmd.Within.update (fun b => hp b _)) (fun _ => ?_)
  refine Cmd.Within.bind h.F (h.within_calibrateOffset hw) (fun _ => ?_)
  refine Cmd.Within.bind h.F (Cmd.Within.update (fun b => hp b _)) (fun _ => ?_)
  refine Cmd.Within.bind h.F (h.within_getCalibration _ (fun b k => hc b _ k)) (fun _ => ?_)
  refine Cmd.Within.bind h.F (h.within_getCalibration _ (fun b k => hc b _ k)) (fun _ => ?_)
  exact Cmd.Within.bind h.F (Cmd.Within.update (fun b => hp b _)) (fun _ => Cmd.Within.pure h.F _)

/-- R209. -/
theorem within_stable (h : Cmd.Reads R E) {ch : Ch} {src : FbSource} (hf : (fbSample ch src).Within R E) :
    (stable ch src).Within R E := by
  refine Cmd.Within.bind h.F hf (fun a => ?_)
  refine h.retry (fun v => ?_)
  refine Cmd.Within.bind h.F hf (fun b => ?_)
  refine Cmd.Within.bind h.F (Cmd.Within.look h.F _) (fun tol => ?_)
  cases F64.lt (F64.abs (F64.sub b v)) tol
  · exact Cmd.Within.pure h.F _
  · exact Cmd.Within.pure h.F _

/-- R208: one pass. -/
theorem within_sweep (h : Cmd.Reads R E) {ch : Ch} (hf : (fbSample ch .dacFb).Within R E)
    (hd : ∀ v, (writeDac ch v).Within R E) (target : F64) (step : Nat) :
    ∀ fuel v best, (sweep ch target step fuel v best).Within R E := by
  intro fuel
  induction fuel with
  | zero =>
    intro v best
    exact Cmd.Within.pure h.F _
  | succ n ih =>
    intro v best
    unfold sweep
    by_cases hv : dacMax < v
    · rw [if_pos hv]
      exact Cmd.Within.pure h.F _
    · rw [if_neg hv]
      refine Cmd.Within.bind h.F (hd _) (fun _ => ?_)
      refine Cmd.Within.bind h.F (h.within_stable hf) (fun fb => ?_)
      cases F64.le zeroF (F64.sub target fb)
      · exact Cmd.Within.pure h.F _
      · exact ih _ _

/-- R208: all passes. -/
theorem within_passes (h : Cmd.Reads R E) {ch : Ch} (hf : (fbSample ch .dacFb).Within R E)
    (hd : ∀ v, (writeDac ch v).Within R E) (target : F64) : ∀ k best, (passes ch target k best).Within R E := by
  intro k
  induction k with
  | zero =>
    intro best
    exact h.within_sweep hf hd _ _ _ _ _
  | succ n ih =>
    intro best
    exact Cmd.Within.bind h.F (h.within_sweep hf hd _ _ _ _ _) (fun _ => ih _)

/-- R208. -/
theorem within_calibrateDac (h : Cmd.Reads R E) (ch : Ch) (hf : ∀ src, (fbSample ch src).Within R E)
    (hd : ∀ v, (writeDac ch v).Within R E) (h0 : ∀ b : Block, R b (b.updCh ch (fun c => { c with calFailed := false })))
    (h1 : ∀ (b : Block) m t best, R b (b.updCh ch (fun c => c.calibrated m t best))) : (calibrateDac ch).Within R E := by
  refine Cmd.Within.bind h.F (Cmd.Within.update h0) (fun _ => ?_)
  refine Cmd.Within.bind h.F ?_ (fun target => ?_)
  · refine Cmd.Within.bind h.F (Cmd.Within.look h.F _) (fun mode => ?_)
    cases mode
    · exact h.within_stable (hf _)
    · exact Cmd.Within.look h.F _
  · refine Cmd.Within.bind h.F (Cmd.Within.look h.F _) (fun k => ?_)
    refine Cmd.Within.bind h.F (h.within_passes (hf _) hd _ _ _) (fun best => ?_)
    refine Cmd.Within.bind h.F (hd _) (fun _ => ?_)
    refine Cmd.Within.bind h.F (Cmd.Within.look h.F _) (fun mode => ?_)
    exact Cmd.Within.bind h.F (Cmd.Within.update (fun b => h1 b _ _ _)) (fun _ => Cmd.Within.pure h.F _)

/-- R207: the control step stays within what the matrix tick, the controllers' steps, the DAC frame and the driver enable stay
within. -/
theorem within_controlStep (h : Cmd.Reads R E) (ch : Ch) (hmtx : ∀ (b : Block) m, R b (b.setMtx m))
    (hiir : ∀ (b : Block) x, R b (b.updCh ch (fun c => { c with iir := (b.ch.get ch).iir.step x })))
    (hpid : ∀ (b : Block) x dt, R b (b.updCh ch (fun c => { c with pid := (b.ch.get ch).pid.step x dt })))
    (hd : ∀ v, (writeDac ch v).Within R E) (ht : ∀ f, (setTecEn ch f).Within R E) : (controlStep ch).Within R E := by
  refine Cmd.Within.bind h.F (Cmd.Within.update (fun b => hmtx b _)) (fun _ => ?_)
  refine Cmd.Within.bind h.F (Cmd.Within.lookCh h.F _ _) (fun e => ?_)
  cases e
  · exact Cmd.Within.pure h.F _
  · refine Cmd.Within.bind h.F (Cmd.Within.look h.F _) (fun t => ?_)
    cases t with
    | none => exact ht _
    | some t =>
      refine Cmd.Within.bind h.F ?_ (fun out => ?_)
      · refine Cmd.Within.bind h.F (Cmd.Within.lookCh h.F _ _) (fun c => ?_)
        cases c.mtxSel with
        | some k => exact Cmd.Within.bind h.F (Cmd.Within.look h.F _) (fun _ => Cmd.Within.pure h.F _)
        | none =>
          cases c.iirEngaged
          · cases c.adcInterval with
            | none => exact Cmd.Within.pure h.F _
            | some dt =>
              simp only [Bool.false_eq_true, if_false]
              cases F64.lt zeroF dt
              · exact Cmd.Within.pure h.F _
              · simp only [if_true]
                refine Cmd.Within.bind h.F ?_ (fun _ => Cmd.Within.pure h.F _)
                intro b
                exact hpid b t dt
          · simp only [if_true]
            refine Cmd.Within.bind h.F ?_ (fun _ => Cmd.Within.pure h.F _)
            intro b
            exact hiir b t
      · cases out with
        | none => exact Cmd.Within.pure h.F _
        | some out =>
          exact Cmd.Within.bind h.F (Cmd.Within.lookCh h.F _ _) (fun _ =>
            Cmd.Within.bind h.F (hd _) (fun _ => ht _))

end Cmd.Reads

/-! The port primitives without a script at hand. -/

/-- Driving a pin asks nobody anything. -/
theorem Block.nextAnswer_drive (b : Block) (p : Pin) (l : Level) : (b.drive p l).nextAnswer = b.nextAnswer := by
  cases p <;> rfl

/-- R155, R156: everything a code sent to a DAC can do. -/
theorem run_writeDac (b : Block) (ch : Ch) (v : DacCode) :
    writeDac ch v b =
      if b.nextAnswer.fails then .error (.raised (.transport (.dac ch))) (Safety.afterDacFail b ch v b.script.tail)
      else .ok () (Safety.afterDac b ch v b.nextAnswer b.script.tail) := by
  have hlen : (Safety.dacBytes v).length = 3 := rfl
  cases hi : b.cfg.syncIdle.get ch <;> cases hf : b.nextAnswer.fails <;>
    simp only [writeDac, dacFrame, dacPack_eq, Cmd.run_bind, Cmd.run_look, hi, Cmd.run_pinSet, Cmd.run_onStop, run_spiXfer,
      Block.nextAnswer_drive, hf, if_true, if_false, Bool.false_eq_true, Cmd.run_update, Cmd.run_updateCh] <;>
    simp [Safety.afterDac, Safety.afterDacFail, Safety.dacEvents, Safety.dacFailEvents, hi, hlen, Block.drive, Block.setPin,
      Block.record, Block.consumed, Block.updCh]

end Sys2Proof.Machine
end

