-- ==== Sys2Proof/Laws/PerInstr.lean ====
section
/-! SUPPORT. One lemma per instruction about its encoding: the opcode byte, or the fixed bits of a wire row, that
spec/opcode_table.json gives its row; and the fields of a command word read back. -/

namespace Sys2Proof.Laws

/-- A command word's OPC field is the opcode it was built from. -/
theorem opcOf_append (opc : BitVec 8) (idx sub : BitVec 3) (imm : BitVec 18) : opcOf (opc ++ idx ++ sub ++ imm) = opc := by
  apply BitVec.eq_of_getLsbD_eq
  intro i hi
  simp only [opcOf, BitVec.getLsbD_extractLsb', BitVec.getLsbD_append]
  rw [if_neg (by omega), if_neg (by omega), if_neg (by omega), show 24 + i - 18 - 3 - 3 = i by omega]
  simp only [hi, decide_true, Bool.true_and]

/-- A command word's IDX field is the index it was built from. -/
theorem idxOf_append (opc : BitVec 8) (idx sub : BitVec 3) (imm : BitVec 18) : idxOf (opc ++ idx ++ sub ++ imm) = idx := by
  apply BitVec.eq_of_getLsbD_eq
  intro i hi
  simp only [idxOf, BitVec.getLsbD_extractLsb', BitVec.getLsbD_append]
  rw [if_neg (by omega), if_neg (by omega), if_pos (by omega), show 21 + i - 18 - 3 = i by omega]
  simp only [hi, decide_true, Bool.true_and]

/-- A command word's SUB field is the selector it was built from. -/
theorem subOf_append (opc : BitVec 8) (idx sub : BitVec 3) (imm : BitVec 18) : subOf (opc ++ idx ++ sub ++ imm) = sub := by
  apply BitVec.eq_of_getLsbD_eq
  intro i hi
  simp only [subOf, BitVec.getLsbD_extractLsb', BitVec.getLsbD_append]
  rw [if_neg (by omega), if_pos (by omega), show 18 + i - 18 = i by omega]
  simp only [hi, decide_true, Bool.true_and]

/-- A command word's IMM field is the immediate it was built from. -/
theorem immOf_append (opc : BitVec 8) (idx sub : BitVec 3) (imm : BitVec 18) : immOf (opc ++ idx ++ sub ++ imm) = imm := by
  apply BitVec.eq_of_getLsbD_eq
  intro i hi
  simp only [immOf, BitVec.getLsbD_extractLsb', BitVec.getLsbD_append]
  rw [if_pos (by omega), Nat.zero_add]
  simp only [hi, decide_true, Bool.true_and]

namespace EncodeOpcode

/-- The opcode byte of a command's row; none for the four wire rows. -/
def opcode : Instr → Option (BitVec 8)
  | .ckInit _ => some 0x01#8
  | .ckFeed _ => some 0x02#8
  | .ckResult => some 0x03#8
  | .adcReset => some 0x10#8
  | .adcReadReg _ => some 0x11#8
  | .adcWriteReg _ => some 0x12#8
  | .adcUpdateReg _ => some 0x13#8
  | .adcIdentify => some 0x14#8
  | .adcSetChecksumMode _ => some 0x15#8
  | .adcSetupChannel _ _ _ => some 0x16#8
  | .adcCalibrateOffset => some 0x17#8
  | .adcGetCalibration _ => some 0x18#8
  | .adcGetPostfilter _ => some 0x19#8
  | .adcSetPostfilter _ _ => some 0x1A#8
  | .adcPostfilterClosest => some 0x1B#8
  | .adcDataReady => some 0x1C#8
  | .adcReadData => some 0x1D#8
  | .adcInit => some 0x1E#8
  | .dacInit _ => some 0x20#8
  | .dacSetCode _ => some 0x21#8
  | .dacSetVolts _ => some 0x22#8
  | .shGetTemperature _ => some 0x30#8
  | .shSetParam _ _ => some 0x31#8
  | .pidUpdate _ => some 0x40#8
  | .pidUpdateKi _ => some 0x41#8
  | .pidSetParam _ _ => some 0x42#8
  | .iirTick _ => some 0x50#8
  | .iirSetCoeff _ _ => some 0x51#8
  | .iirSetTarget _ => some 0x52#8
  | .mtxTick => some 0x54#8
  | .mtxSetCoeff _ _ => some 0x55#8
  | .mtxSetSource _ _ _ => some 0x56#8
  | .chConvertData _ => some 0x60#8
  | .chSample _ => some 0x61#8
  | .chGetTemperature _ => some 0x62#8
  | .chSetI _ => some 0x63#8
  | .chGetI _ => some 0x64#8
  | .chSetDacVolts _ => some 0x65#8
  | .chSetCenter _ _ => some 0x66#8
  | .chSetPidEngaged _ _ => some 0x67#8
  | .chSetIirEngaged _ _ => some 0x68#8
  | .chSetMtxSel _ _ => some 0x69#8
  | .chSetTecEn _ _ => some 0x6A#8
  | .chSetPwmLimit _ _ => some 0x6B#8
  | .chCalibrateDac _ => some 0x6C#8
  | .chReadField _ _ => some 0x6D#8
  | .pollAdc => some 0x70#8
  | .blockInit => some 0x71#8
  | .spiReadCmd _ => none
  | .spiWriteCmd _ => none
  | .spiResetFrame => none
  | .dacWord _ => none

/-- An instruction's encoding has its row's opcode byte, or, for a wire row, the row's fixed bits. -/
def Statement (i : Instr) : Prop :=
  match encode i with
  | .cmd32 w => opcode i = some (opcOf w)
  | .spi8 b => opcode i = none ∧ b.getLsbD 7 = false
  | .reset64 w => opcode i = none ∧ w = 0xFFFFFFFFFFFFFFFF#64
  | .dac24 w => opcode i = none ∧ w &&& 0xF00003#24 = 0#24

theorem ckInit (mode : CkMode) : Statement (.ckInit mode) := congrArg some (opcOf_append ..).symm

theorem ckFeed (byte : Byte) : Statement (.ckFeed byte) := congrArg some (opcOf_append ..).symm

theorem ckResult : Statement .ckResult := congrArg some (opcOf_append ..).symm

theorem adcReset : Statement .adcReset := congrArg some (opcOf_append ..).symm

theorem adcReadReg (addr : RegAddr) : Statement (.adcReadReg addr) := congrArg some (opcOf_append ..).symm

theorem adcWriteReg (addr : RegAddr) : Statement (.adcWriteReg addr) := congrArg some (opcOf_append ..).symm

theorem adcUpdateReg (addr : RegAddr) : Statement (.adcUpdateReg addr) := congrArg some (opcOf_append ..).symm

theorem adcIdentify : Statement .adcIdentify := congrArg some (opcOf_append ..).symm

theorem adcSetChecksumMode (mode : CkMode) : Statement (.adcSetChecksumMode mode) := congrArg some (opcOf_append ..).symm

theorem adcSetupChannel (ch : Ch) (inPos : BitVec 5) (inNeg : BitVec 5) : Statement (.adcSetupChannel ch inPos inNeg) := congrArg some (opcOf_append ..).symm

theorem adcCalibrateOffset : Statement .adcCalibrateOffset := congrArg some (opcOf_append ..).symm

theorem adcGetCalibration (ch : Ch) : Statement (.adcGetCalibration ch) := congrArg some (opcOf_append ..).symm

theorem adcGetPostfilter (ch : Ch) : Statement (.adcGetPostfilter ch) := congrArg some (opcOf_append ..).symm

theorem adcSetPostfilter (ch : Ch) (code : Option (BitVec 3)) : Statement (.adcSetPostfilter ch code) := congrArg some (opcOf_append ..).symm

theorem adcPostfilterClosest : Statement .adcPostfilterClosest := congrArg some (opcOf_append ..).symm

theorem adcDataReady : Statement .adcDataReady := congrArg some (opcOf_append ..).symm

theorem adcReadData : Statement .adcReadData := congrArg some (opcOf_append ..).symm

theorem adcInit : Statement .adcInit := congrArg some (opcOf_append ..).symm

theorem dacInit (ch : Ch) : Statement (.dacInit ch) := congrArg some (opcOf_append ..).symm

theorem dacSetCode (ch : Ch) : Statement (.dacSetCode ch) := congrArg some (opcOf_append ..).symm

theorem dacSetVolts (ch : Ch) : Statement (.dacSetVolts ch) := congrArg some (opcOf_append ..).symm

theorem shGetTemperature (ch : Ch) : Statement (.shGetTemperature ch) := congrArg some (opcOf_append ..).symm

theorem shSetParam (ch : Ch) (param : ShParam) : Statement (.shSetParam ch param) := congrArg some (opcOf_append ..).symm

theorem pidUpdate (ch : Ch) : Statement (.pidUpdate ch) := congrArg some (opcOf_append ..).symm

theorem pidUpdateKi (ch : Ch) : Statement (.pidUpdateKi ch) := congrArg some (opcOf_append ..).symm

theorem pidSetParam (ch : Ch) (param : PidParam) : Statement (.pidSetParam ch param) := congrArg some (opcOf_append ..).symm

theorem iirTick (ch : Ch) : Statement (.iirTick ch) := congrArg some (opcOf_append ..).symm

theorem iirSetCoeff (ch : Ch) (coeff : Coeff) : Statement (.iirSetCoeff ch coeff) := congrArg some (opcOf_append ..).symm

theorem iirSetTarget (ch : Ch) : Statement (.iirSetTarget ch) := congrArg some (opcOf_append ..).symm

theorem mtxTick : Statement .mtxTick := congrArg some (opcOf_append ..).symm

theorem mtxSetCoeff (k : Slot) (coeff : Coeff) : Statement (.mtxSetCoeff k coeff) := congrArg some (opcOf_append ..).symm

theorem mtxSetSource (k : Slot) (role : Role) (sel : Source) : Statement (.mtxSetSource k role sel) := congrArg some (opcOf_append ..).symm

theorem chConvertData (ch : Ch) : Statement (.chConvertData ch) := congrArg some (opcOf_append ..).symm

theorem chSample (ch : Ch) : Statement (.chSample ch) := congrArg some (opcOf_append ..).symm

theorem chGetTemperature (ch : Ch) : Statement (.chGetTemperature ch) := congrArg some (opcOf_append ..).symm

theorem chSetI (ch : Ch) : Statement (.chSetI ch) := congrArg some (opcOf_append ..).symm

theorem chGetI (ch : Ch) : Statement (.chGetI ch) := congrArg some (opcOf_append ..).symm

theorem chSetDacVolts (ch : Ch) : Statement (.chSetDacVolts ch) := congrArg some (opcOf_append ..).symm

theorem chSetCenter (ch : Ch) (sel : CenterSel) : Statement (.chSetCenter ch sel) := congrArg some (opcOf_append ..).symm

theorem chSetPidEngaged (ch : Ch) (flag : Bool) : Statement (.chSetPidEngaged ch flag) := congrArg some (opcOf_append ..).symm

theorem chSetIirEngaged (ch : Ch) (flag : Bool) : Statement (.chSetIirEngaged ch flag) := congrArg some (opcOf_append ..).symm

theorem chSetMtxSel (ch : Ch) (sel : Option Slot) : Statement (.chSetMtxSel ch sel) := congrArg some (opcOf_append ..).symm

theorem chSetTecEn (ch : Ch) (flag : Bool) : Statement (.chSetTecEn ch flag) := congrArg some (opcOf_append ..).symm

theorem chSetPwmLimit (ch : Ch) (limit : Limit) : Statement (.chSetPwmLimit ch limit) := congrArg some (opcOf_append ..).symm

theorem chCalibrateDac (ch : Ch) : Statement (.chCalibrateDac ch) := congrArg some (opcOf_append ..).symm

theorem chReadField (idx : BitVec 3) (field : BitVec 8) : Statement (.chReadField idx field) := congrArg some (opcOf_append ..).symm

theorem pollAdc : Statement .pollAdc := congrArg some (opcOf_append ..).symm

theorem blockInit : Statement .blockInit := congrArg some (opcOf_append ..).symm

theorem spiReadCmd (addr : RegAddr) : Statement (.spiReadCmd addr) := ⟨rfl, by revert addr; decide⟩

theorem spiWriteCmd (addr : RegAddr) : Statement (.spiWriteCmd addr) := ⟨rfl, by revert addr; decide⟩

theorem spiResetFrame : Statement .spiResetFrame := ⟨rfl, rfl⟩

theorem dacWord (code : DacCode) : Statement (.dacWord code) := by
  refine ⟨rfl, ?_⟩
  apply BitVec.eq_of_getLsbD_eq
  intro i hi
  simp only [BitVec.getLsbD_and, BitVec.getLsbD_append, BitVec.getLsbD_zero]
  by_cases h1 : i < 2
  · simp [h1]
  · by_cases h2 : i - 2 < 18
    · have : ∀ k : Fin 18, (0xF00003#24).getLsbD (k.val + 2) = false := by decide
      have h3 := this ⟨i - 2, h2⟩
      rw [Nat.sub_add_cancel (by omega)] at h3
      simp [h3]
    · simp [h1, h2]

end EncodeOpcode

end Sys2Proof.Laws
end

