-- ==== Sys2Proof/Tests/Slice0.lean ====
section
/-! SUPPORT. Small tests: ill-formed terms refused, words written out from the spec's encoding decoded, one step against the spec's
vectors (95_test_vectors.md), and for each statement with hypotheses a state and operands that meet them. -/

set_option Elab.async false

namespace Sys2Proof.Tests

open Machine Safety

/-! Well-formedness: one ill-formed term for each check. -/

/-- R57: 0x05 is not in REG_TABLE. -/
theorem test_illformed_unknown_register :
    Instr.wellFormed defaultTables (.adcReadReg 0x05#6) = false := by decide

/-- R57: ID is read-only. -/
theorem test_illformed_read_only_register :
    Instr.wellFormed defaultTables (.adcWriteReg 0x07#6) = false := by decide

/-- R57: DATA is read-only. -/
theorem test_illformed_update_read_only :
    Instr.wellFormed defaultTables (.adcUpdateReg 0x04#6) = false := by decide

/-- V2.2: 0b00101 is reserved. -/
theorem test_illformed_reserved_pos_input :
    Instr.wellFormed defaultTables (.adcSetupChannel .c0 0b00101#5 0b00000#5) = false := by decide

/-- V2.2: 0b00101 is reserved. -/
theorem test_illformed_reserved_neg_input :
    Instr.wellFormed defaultTables (.adcSetupChannel .c0 0b00000#5 0b00101#5) = false := by decide

/-- V2.2: 0b000 is no PostFilter code. -/
theorem test_illformed_bad_postfilter :
    Instr.wellFormed defaultTables (.adcSetPostfilter .c0 (some 0b000#3)) = false := by decide

/-- V2.2: field id 0x14 is not in the table. -/
theorem test_illformed_unknown_field :
    Instr.wellFormed defaultTables (.chReadField 0b000#3 0x14#8) = false := by decide

/-- V2.2: a block field with IDX 1. -/
theorem test_illformed_block_field_index :
    Instr.wellFormed defaultTables (.chReadField 0b001#3 0xF0#8) = false := by decide

/-- R211: a channel field with IDX 2. -/
theorem test_illformed_channel_field_index :
    Instr.wellFormed defaultTables (.chReadField 0b010#3 0x06#8) = false := by decide

/-! Decoding: a word for every constructor, written out from 30_encoding.md R101 to R105, R82, R85, R100. -/

/-- R105, V1.5. -/
theorem test_decode_checksum :
    decode defaultTables (.cmd32 0x01000002#32) = .ok (.ckInit .crc) ∧
    decode defaultTables (.cmd32 0x01000001#32) = .ok (.ckInit .xor) ∧
    decode defaultTables (.cmd32 0x020000D0#32) = .ok (.ckFeed 0xD0#8) ∧
    decode defaultTables (.cmd32 0x03000000#32) = .ok (.ckResult) := by decide

/-- R105, V2.1, V3.1 to V3.7. -/
theorem test_decode_adc_registers :
    decode defaultTables (.cmd32 0x10000000#32) = .ok (.adcReset) ∧
    decode defaultTables (.cmd32 0x11000007#32) = .ok (.adcReadReg 0x07#6) ∧
    decode defaultTables (.cmd32 0x12000001#32) = .ok (.adcWriteReg 0x01#6) ∧
    decode defaultTables (.cmd32 0x13000001#32) = .ok (.adcUpdateReg 0x01#6) ∧
    decode defaultTables (.cmd32 0x14000000#32) = .ok (.adcIdentify) ∧
    decode defaultTables (.cmd32 0x15000002#32) = .ok (.adcSetChecksumMode .crc) ∧
    decode defaultTables (.cmd32 0x16200062#32) = .ok (.adcSetupChannel .c1 0b00010#5 0b00011#5) ∧
    decode defaultTables (.cmd32 0x16000020#32) = .ok (.adcSetupChannel .c0 0b00000#5 0b00001#5) := by decide

/-- R105, V2.1, V3.8 to V3.15. -/
theorem test_decode_adc_others :
    decode defaultTables (.cmd32 0x17000000#32) = .ok (.adcCalibrateOffset) ∧
    decode defaultTables (.cmd32 0x18200000#32) = .ok (.adcGetCalibration .c1) ∧
    decode defaultTables (.cmd32 0x19000000#32) = .ok (.adcGetPostfilter .c0) ∧
    decode defaultTables (.cmd32 0x1A00000D#32) = .ok (.adcSetPostfilter .c0 (some 0b101#3)) ∧
    decode defaultTables (.cmd32 0x1A200000#32) = .ok (.adcSetPostfilter .c1 none) ∧
    decode defaultTables (.cmd32 0x1B000000#32) = .ok (.adcPostfilterClosest) ∧
    decode defaultTables (.cmd32 0x1C000000#32) = .ok (.adcDataReady) ∧
    decode defaultTables (.cmd32 0x1D000000#32) = .ok (.adcReadData) ∧
    decode defaultTables (.cmd32 0x1E000000#32) = .ok (.adcInit) := by decide

/-- R105, V4.2 to V4.4. -/
theorem test_decode_dac :
    decode defaultTables (.cmd32 0x20200000#32) = .ok (.dacInit .c1) ∧
    decode defaultTables (.cmd32 0x21000000#32) = .ok (.dacSetCode .c0) ∧
    decode defaultTables (.cmd32 0x22200000#32) = .ok (.dacSetVolts .c1) := by decide

/-- R105, V2.1, V5.1, P2, P7. -/
theorem test_decode_converters :
    decode defaultTables (.cmd32 0x30000000#32) = .ok (.shGetTemperature .c0) ∧
    decode defaultTables (.cmd32 0x31080000#32) = .ok (.shSetParam .c0 .b) ∧
    decode defaultTables (.cmd32 0x40200000#32) = .ok (.pidUpdate .c1) ∧
    decode defaultTables (.cmd32 0x41200000#32) = .ok (.pidUpdateKi .c1) ∧
    decode defaultTables (.cmd32 0x42380000#32) = .ok (.pidSetParam .c1 .integralMax) ∧
    decode defaultTables (.cmd32 0x42040000#32) = .ok (.pidSetParam .c0 .kp) := by decide

/-- R105, V2.1, V7.1, P5. -/
theorem test_decode_filters :
    decode defaultTables (.cmd32 0x50000000#32) = .ok (.iirTick .c0) ∧
    decode defaultTables (.cmd32 0x512C0000#32) = .ok (.iirSetCoeff .c1 .a1) ∧
    decode defaultTables (.cmd32 0x52000000#32) = .ok (.iirSetTarget .c0) ∧
    decode defaultTables (.cmd32 0x54000000#32) = .ok (.mtxTick) ∧
    decode defaultTables (.cmd32 0x55200000#32) = .ok (.mtxSetCoeff .k1 .b0) ∧
    decode defaultTables (.cmd32 0x56E4000F#32) = .ok (.mtxSetSource .k7 .target (.filter .k7)) ∧
    decode defaultTables (.cmd32 0x56200008#32) = .ok (.mtxSetSource .k1 .input (.filter .k0)) := by decide

/-- R105, V2.1, V8.1 to V8.6. -/
theorem test_decode_channel :
    decode defaultTables (.cmd32 0x60000000#32) = .ok (.chConvertData .c0) ∧
    decode defaultTables (.cmd32 0x61200000#32) = .ok (.chSample .c1) ∧
    decode defaultTables (.cmd32 0x62000000#32) = .ok (.chGetTemperature .c0) ∧
    decode defaultTables (.cmd32 0x63000000#32) = .ok (.chSetI .c0) ∧
    decode defaultTables (.cmd32 0x64200000#32) = .ok (.chGetI .c1) ∧
    decode defaultTables (.cmd32 0x65000000#32) = .ok (.chSetDacVolts .c0) ∧
    decode defaultTables (.cmd32 0x66040000#32) = .ok (.chSetCenter .c0 .override) ∧
    decode defaultTables (.cmd32 0x67000001#32) = .ok (.chSetPidEngaged .c0 true) ∧
    decode defaultTables (.cmd32 0x68200000#32) = .ok (.chSetIirEngaged .c1 false) := by decide

/-- R105, V2.1, V8.10 to V8.12. -/
theorem test_decode_channel_settings :
    decode defaultTables (.cmd32 0x6900000A#32) = .ok (.chSetMtxSel .c0 (some .k2)) ∧
    decode defaultTables (.cmd32 0x69000000#32) = .ok (.chSetMtxSel .c0 none) ∧
    decode defaultTables (.cmd32 0x6A200001#32) = .ok (.chSetTecEn .c1 true) ∧
    decode defaultTables (.cmd32 0x6B080000#32) = .ok (.chSetPwmLimit .c0 .maxV) ∧
    decode defaultTables (.cmd32 0x6C000000#32) = .ok (.chCalibrateDac .c0) ∧
    decode defaultTables (.cmd32 0x6D20006E#32) = .ok (.chReadField 0b001#3 0x6E#8) ∧
    decode defaultTables (.cmd32 0x6D0000F3#32) = .ok (.chReadField 0b000#3 0xF3#8) ∧
    decode defaultTables (.cmd32 0x70000000#32) = .ok (.pollAdc) ∧
    decode defaultTables (.cmd32 0x71000000#32) = .ok (.blockInit) := by decide

/-- R82, R85, R100, V4.1. -/
theorem test_decode_wire :
    decode defaultTables (.spi8 0x47#8) = .ok (.spiReadCmd 0x07#6) ∧ decode defaultTables (.spi8 0x02#8) = .ok (.spiWriteCmd 0x02#6) ∧
    decode defaultTables (.reset64 0xFFFFFFFFFFFFFFFF#64) = .ok .spiResetFrame ∧ decode defaultTables (.dac24 0x048D14#24) = .ok (.dacWord 0x12345#18) := by decide

/-- The table's numbering. -/
theorem test_decode_table_word :
    decodeTableWord 32 0x6900000A = some (.chSetMtxSel .c0 (some .k2)) ∧ decodeTableWord 8 0x47 = some (.spiReadCmd 0x07#6) ∧
    decodeTableWord 24 0x048D14 = some (.dacWord 0x12345#18) ∧ decodeTableWord 64 0xFFFFFFFFFFFFFFFF = some .spiResetFrame ∧
    decodeTableWord 32 0x53000000 = none := by decide

/-- V2.2, V1.5: the illegal words, by the field refused. -/
theorem test_decode_illegal :
    decode defaultTables (.cmd32 0x00000000#32) = .error .opc ∧
    decode defaultTables (.cmd32 0x53000000#32) = .error .opc ∧
    decode defaultTables (.cmd32 0xFF000000#32) = .error .opc ∧
    decode defaultTables (.cmd32 0x63400000#32) = .error .idx ∧
    decode defaultTables (.cmd32 0x421C0000#32) = .error .sub ∧
    decode defaultTables (.cmd32 0x50040000#32) = .error .sub ∧
    decode defaultTables (.cmd32 0x1A000008#32) = .error .imm ∧
    decode defaultTables (.cmd32 0x1A000005#32) = .error .imm ∧
    decode defaultTables (.cmd32 0x16000005#32) = .error .imm ∧
    decode defaultTables (.cmd32 0x56000003#32) = .error .imm ∧
    decode defaultTables (.cmd32 0x69000002#32) = .error .imm ∧
    decode defaultTables (.cmd32 0x11000005#32) = .error .imm ∧
    decode defaultTables (.cmd32 0x12000007#32) = .error .imm ∧
    decode defaultTables (.cmd32 0x6D2000F0#32) = .error .idx ∧
    decode defaultTables (.cmd32 0x6D000014#32) = .error .imm ∧
    decode defaultTables (.cmd32 0x1B000001#32) = .error .imm ∧
    decode defaultTables (.cmd32 0x01000003#32) = .error .imm ∧
    decode defaultTables (.cmd32 0x02000100#32) = .error .imm := by decide

/-- R82 (WEN), R85, R100: a fixed bit that is wrong. -/
theorem test_decode_illegal_wire :
    decode defaultTables (.spi8 0x80#8) = .error .wire ∧ decode defaultTables (.reset64 0xFFFFFFFFFFFFFFFE#64) = .error .wire ∧
    decode defaultTables (.dac24 0x100000#24) = .error .wire ∧ decode defaultTables (.dac24 0x000002#24) = .error .wire := by decide

/-! One step. -/

/-- The block at reset with the OPEN parameters of 95_test_vectors.md section 0, changed by f. -/
def st (f : Block → Block) : State :=
  { State.reset with
    toBlock := f { Block.reset with
      cfg := { Params.reset with syncIdle := ⟨.high, .high⟩, adcVref := 0x4008000000000000#64, setupOdr := 0b01010#5 } } }

/-- A step of one instruction. -/
def run (i : Instr) (f : Block → Block) : State :=
  match exec i (st f) with
  | .next t => t
  | _ => st f

/-- A successful SPI answer. -/
def ans (bs : List Byte) : Answer := ⟨false, bs, 0#64⟩

/-- A failing primitive. -/
def failing : Answer := ⟨true, [], 0#64⟩

/-- Answers as a run of frames expects them. -/
def replies (fs : List Frame) : List Answer := (fs.flatMap Frame.replies).map (fun r => ans (r.getD []))

/-- The bytes of each SPI transfer, oldest first. -/
def sentBytes (t : State) : List (List Byte) :=
  (t.hist.filterMap (fun e => match e with | .spi _ out _ => some out | _ => none)).reverse

/-- A channel record with a calibration. -/
def calibrated (c : Channel) : Channel := { c with cal := some ⟨0x800000#24, 0x400000#24, true⟩ }

/-- R238: after reset the block waits. -/
theorem test_reset_waits :
    step State.reset = .next State.reset := by rfl

/-- withFetchWord: the next step runs the word. -/
theorem test_fetch_word :
    step (State.reset.withFetchWord 32 0x02000001) = exec (.ckFeed 0x01#8) { State.reset with cmd := 0x02000001#32 } := by rfl

/-- V2.2. -/
theorem test_illegal_word :
    (match step (State.reset.withFetchWord 32 0x63400000) with
      | .next t => t.rStatus == 2#8 && t.rD == some 0x63400000#32 && t.rA == none && t.nss == .high
      | _ => false) = true := by decide +kernel

/-- V1.5. -/
theorem test_ck_init :
    (run (.ckInit .xor) (fun b => { b with ck := ⟨.crc, 0xD2#8⟩ })).ck = ⟨.xor, 0x00#8⟩ := by decide

/-- V1.5, V1.3. -/
theorem test_ck_feed :
    (run (.ckFeed 0x01#8) (fun b => { b with ck := ⟨.crc, 0x00#8⟩ })).ck = ⟨.crc, 0x07#8⟩ ∧
    (run (.ckFeed 0xD0#8) (fun b => { b with ck := ⟨.xor, 0x47#8⟩ })).ck = ⟨.xor, 0x97#8⟩ := by decide

/-- V1.5. -/
theorem test_ck_result :
    (run .ckResult (fun b => { b with ck := ⟨.crc, 0xD2#8⟩ })).rD = some 0xD2#32 ∧
    (run .ckResult (fun b => { b with ck := ⟨.off, 0xD2#8⟩ })).rD = none := by decide

/-- V3.1, R135. -/
theorem test_adc_reset :
    (run .adcReset (fun b => { b with ckmode := .crc, script := [ans []] })).ckmode = .off ∧
    (run .adcReset (fun b => { b with ckmode := .crc, script := [failing] })).ckmode = .crc := by decide

/-- V3.2, third row. -/
theorem test_adc_read_reg_retry :
    let t := run (.adcReadReg 0x07#6) (fun b => { b with
        ckmode := .crc
        script := [ans [], ans [0x00#8, 0xD0#8], ans [0x00#8], ans [], ans [0x00#8, 0xD0#8], ans [0xAE#8]] })
    t.rD = some 0x00D0#32 ∧ t.rc.read = 1#32 ∧
      sentBytes t = [[0x47#8], [0x00#8, 0x00#8], [0xD2#8], [0x47#8], [0x00#8, 0x00#8], [0xD2#8]] := by decide +kernel

/-- V3.16: three frames. -/
theorem test_adc_read_reg_exhausted :
    let t := run (.adcReadReg 0x00#6) (fun b => { b with
        ckmode := .crc
        cfg := { b.cfg with retryLimit := some 2 }
        script := List.replicate 9 (ans [0x55#8]) })
    t.rStatus = 5#8 ∧ t.rD = some 1#32 ∧ t.rc.read = 3#32 ∧ (sentBytes t).length = 9 := by decide +kernel

/-- V3.6. -/
theorem test_adc_write_reg :
    let t := run (.adcWriteReg 0x01#6) (fun b => { b with
        ckmode := .crc
        opD := 0x0060#32
        script := [ans [], ans [], ans [], ans [], ans [0x00#8, 0x00#8], ans [0xED#8], ans [], ans [], ans [], ans [], ans [0x00#8, 0x60#8], ans [0xCA#8]] })
    t.rStatus = 0#8 ∧ t.rc.write = 1#32 ∧ t.rc.read = 0#32 ∧
      (sentBytes t).take 3 = [[0x01#8], [0x00#8, 0x60#8], [0x4C#8]] := by decide +kernel

/-- V2.2. -/
theorem test_adc_write_reg_illegal :
    let t := run (.adcWriteReg 0x01#6) (fun b => { b with cmd := 0x12000001#32, opD := 0x00010000#32 })
    t.rStatus = 2#8 ∧ t.rD = some 0x12000001#32 ∧ t.ports = 0 := by decide +kernel

/-- V3.7. -/
theorem test_adc_update_reg :
    let t := run (.adcUpdateReg 0x01#6) (fun b => { b with
        ckmode := .crc
        opD := 0x0060#32
        opM := 0x0070#32
        script := [ans [], ans [0x20#8, 0x00#8], ans [0x43#8], ans [], ans [], ans [], ans [], ans [0x20#8, 0x60#8], ans [0x64#8]] })
    t.rD = some 0x2060#32 ∧ (sentBytes t).drop 3 = [[0x01#8], [0x20#8, 0x60#8], [0xE2#8], [0x41#8], [0x00#8, 0x00#8], [0xC0#8]] := by decide +kernel

/-- V3.3. -/
theorem test_adc_identify :
    let t := run .adcIdentify (fun b => { b with
        ckmode := .crc
        script := [ans [], ans [0x12#8, 0x34#8], ans [0x61#8], ans [], ans [0x00#8, 0xDB#8], ans [0x9F#8]] })
    t.adcId = some 0x00DB#16 ∧ t.rD = some 0x00DB#32 ∧ t.rc.id = 1#32 ∧ t.rc.read = 0#32 := by decide +kernel

/-- V3.4. -/
theorem test_adc_set_checksum_mode :
    let t := run (.adcSetChecksumMode .crc) (fun b => { b with
        script := [ans [], ans [0x00#8, 0x00#8], ans [], ans [], ans [], ans [0x00#8, 0x08#8]] })
    t.ckmode = .crc ∧ sentBytes t = [[0x42#8], [0x00#8, 0x00#8], [0x02#8], [0x00#8, 0x08#8], [0x42#8], [0x00#8, 0x00#8]] := by decide +kernel

/-- V3.14: each readback is the value written. -/
theorem test_adc_setup_channel :
    let t := run (.adcSetupChannel .c1 0b00010#5 0b00011#5) (fun b => { b with
        script := [ans [], ans [0x00#8, 0x00#8], ans [], ans [], ans [], ans [0x0F#8, 0x00#8], ans [], ans [0x00#8, 0x00#8], ans [], ans [], ans [], ans [0x0E#8, 0x0A#8],
          ans [], ans [0x00#8, 0x00#8], ans [], ans [], ans [], ans [0x90#8, 0x43#8]] })
    t.rStatus = 0#8 ∧ (sentBytes t).length = 18 := by decide +kernel

/-- V3.8: eight frames. -/
theorem test_adc_calibrate_offset :
    let t := run .adcCalibrateOffset (fun b => { b with
        ckmode := .crc
        script := [ans [], ans [0x00#8, 0x00#8], ans [0xED#8], ans [], ans [], ans [], ans [], ans [0x00#8, 0x60#8], ans [0xCA#8], ans [], ans [0x80#8], ans [0xD2#8], ans [], ans [0x00#8], ans [0x5B#8],
          ans [], ans [0x00#8, 0x60#8], ans [0xCA#8], ans [], ans [], ans [], ans [], ans [0x00#8, 0x00#8], ans [0xED#8]] })
    t.rStatus = 0#8 ∧ (sentBytes t).length = 24 ∧ t.script = [] := by decide +kernel

/-- V3.13. -/
theorem test_adc_get_calibration :
    let t := run (.adcGetCalibration .c0) (fun b => { b with
        ckmode := .crc
        script := [ans [], ans [0x80#8, 0x00#8, 0x00#8], ans [0x39#8], ans [], ans [0x55#8, 0x55#8, 0x55#8], ans [0x87#8], ans [], ans [0x1F#8, 0x00#8], ans [0x51#8]] })
    t.rD = some 0x00800000#32 ∧ t.rM = some 0x01555555#32 ∧ t.ch.c0.cal = some ⟨0x800000#24, 0x555555#24, true⟩ ∧
      t.ch.c1.cal = none := by decide +kernel

/-- V3.11. -/
theorem test_adc_get_postfilter :
    (run (.adcGetPostfilter .c0) (fun b => { b with script := [ans [], ans [0x0E#8, 0x0A#8]] })).rD = some 0b110#32 ∧
    (run (.adcGetPostfilter .c0) (fun b => { b with script := [ans [], ans [0x0C#8, 0x0A#8]] })).rD = none := by decide +kernel

/-- V3.11. -/
theorem test_adc_set_postfilter :
    (sentBytes (run (.adcSetPostfilter .c0 (some 0b101#3)) (fun b => { b with
        script := [ans [], ans [0x0E#8, 0x0A#8], ans [], ans [], ans [], ans [0x0D#8, 0x0A#8]] }))).getD 3 [] = [0x0D#8, 0x0A#8] ∧
    (sentBytes (run (.adcSetPostfilter .c0 none) (fun b => { b with
        script := [ans [], ans [0x0E#8, 0x0A#8], ans [], ans [], ans [], ans [0x06#8, 0x0A#8]] }))).getD 3 [] = [0x06#8, 0x0A#8] := by decide +kernel

/-- V3.10: the two ties. -/
theorem test_adc_postfilter_closest :
    (run .adcPostfilterClosest (fun b => { b with opA := 0x403255C28F5C28F6#64 })).rD = some 0b101#32 ∧
    (run .adcPostfilterClosest (fun b => { b with opA := 0x4038200000000000#64 })).rD = some 0b010#32 := by decide +kernel

/-- V3.10: infinity and NaN. -/
theorem test_adc_postfilter_closest_ends :
    (run .adcPostfilterClosest (fun b => { b with opA := 0x7FF0000000000000#64 })).rD = some 0b010#32 ∧
    (run .adcPostfilterClosest (fun b => { b with opA := 0x7FF8000000000000#64 })).rD = none := by decide +kernel

/-- V3.9. -/
theorem test_adc_data_ready :
    (run .adcDataReady (fun b => { b with ckmode := .crc, script := [ans [], ans [0x02#8], ans [0x55#8]] })).rD = some 2#32 ∧
    (run .adcDataReady (fun b => { b with ckmode := .crc, script := [ans [], ans [0x80#8], ans [0xD2#8]] })).rD = none := by decide +kernel

/-- The tables of another chip: ready is a set bit, ID is a register of three bytes at 0x05, one filter. -/
def otherTables : AdcTables :=
  { defaultTables with
    regs := { defaultRegs with rows := [⟨0x00#6, 1, false⟩, ⟨0x05#6, 3, true⟩], id := 0x05#6, readyCode := 1 }
    postfilters := [(0b111#3, F64.ofNat 50)] }

/-- R9, D6: the tables are parameters; the words and results of a block with others. -/
theorem test_other_tables :
    decode otherTables (.cmd32 0x12000005#32) = .ok (.adcWriteReg 0x05#6) ∧
    decode otherTables (.cmd32 0x12000001#32) = .error .imm ∧
    decode otherTables (.cmd32 0x1A00000F#32) = .ok (.adcSetPostfilter .c0 (some 0b111#3)) ∧
    (run .adcDataReady (fun b => { b with cfg := { b.cfg with tables := otherTables }, script := [ans [], ans [0x80#8]] })).rD =
      some 0#32 ∧
    (run .adcIdentify (fun b => { b with
        cfg := { b.cfg with tables := otherTables }
        script := [ans [], ans [0x12#8, 0x00#8, 0xDB#8]] })).adcId = some 0x00DB#16 ∧
    (run .adcPostfilterClosest (fun b => { b with cfg := { b.cfg with tables := otherTables } })).rD = some 0b111#32 := by decide +kernel

/-- V3.12. -/
theorem test_adc_read_data :
    (run .adcReadData (fun b => { b with ckmode := .crc, script := [ans [], ans [0xFF#8, 0xFF#8, 0xFF#8], ans [0xCC#8]] })).rD = some 0x00FFFFFF#32 := by decide +kernel

/-- What a fault-free ADC holds (V3.15): zero registers, one STATUS poll. -/
def freshAdc : AdcContents where
  id := [0x00#8, 0xDB#8]
  ifmode := [0x00#8, 0x00#8]
  setup0 := ([0x00#8, 0x00#8], [0x00#8, 0x00#8], [0x00#8, 0x00#8])
  setup1 := ([0x00#8, 0x00#8], [0x00#8, 0x00#8], [0x00#8, 0x00#8])
  mode1 := [0x00#8, 0x00#8]
  mode2 := [0x00#8, 0x60#8]
  waits := []
  ready := [0x00#8]
  cal0 := ([0x80#8, 0x00#8, 0x00#8], [0x55#8, 0x55#8, 0x55#8], [0x0F#8, 0x00#8])
  cal1 := ([0x80#8, 0x00#8, 0x10#8], [0x40#8, 0x00#8, 0x00#8], [0x0F#8, 0x00#8])

/-- V3.15: 36 frames, phase RUN, unipolar calibrations. -/
theorem test_adc_init :
    let t := run .adcInit (fun b => { b with script := replies (initFrames b.cfg freshAdc) })
    t.rStatus = 0#8 ∧ t.phase = .run ∧ t.ckmode = .crc ∧ t.adcId = some 0x00DB#16 ∧
      t.ch.c0.cal = some ⟨0x800000#24, 0x555555#24, false⟩ ∧
      (t.hist.filter (· == .pin .nssAdc .low)).length = 36 := by decide +kernel

/-- V4.4. -/
theorem test_dac_init :
    (run (.dacInit .c1) (fun b => { b with cfg := { b.cfg with syncIdle := ⟨.high, .low⟩ } })).sync.c1 = some .low := by decide +kernel

/-- V4.3. -/
theorem test_dac_set_code :
    let t := run (.dacSetCode .c0) (fun b => { b with opD := 0x12345#32, script := [ans []] })
    t.ch.c0.dacCode = 0x12345#18 ∧
      t.hist.tail = [.pin (.sync .c0) .high, .spi (.dac .c0) [0x04#8, 0x8D#8, 0x14#8] [0x00#8, 0x00#8, 0x00#8], .pin (.sync .c0) .low] := by decide +kernel

/-- V4.3: DacRange; Transport with port DAC 0. -/
theorem test_dac_set_code_errors :
    (run (.dacSetCode .c0) (fun b => { b with opD := 0x40000#32 })).rStatus = 3#8 ∧
    (run (.dacSetCode .c0) (fun b => { b with opD := 0x3FFFF#32, script := [failing] })).rD = some 1#32 ∧
    (run (.dacSetCode .c0) (fun b => { b with opD := 0x3FFFF#32, script := [failing] })).ch.c0.dacCode = 0#18 := by decide +kernel

/-- V4.2. -/
theorem test_dac_set_volts :
    (run (.dacSetVolts .c0) (fun b => { b with opA := 0x4013FFFD60E94EE4#64, script := [ans []] })).rD = some 262142#32 ∧
    (run (.dacSetVolts .c0) (fun b => { b with opA := 0x3EF4F8B588E368F1#64, script := [ans []] })).rD = some 1#32 := by decide +kernel

/-- V5.1: readings that are no resistance. -/
theorem test_sh_get_temperature :
    (run (.shGetTemperature .c0) (fun b => { b with opA := 0xC014000000000000#64 })).rA = none ∧
    (run (.shGetTemperature .c0) (fun b => { b with opA := 0x7FF8000000000000#64 })).rA = none := by decide +kernel

/-- V5.2. -/
theorem test_sh_set_param :
    (run (.shSetParam .c0 .b) (fun b => { b with opA := 0#64 })).ch.c0.sh = ⟨0x4072A26666666666#64, 0x40C3880000000000#64, 0#64⟩ := by decide +kernel

/-- V6.3, third row. -/
theorem test_pid_update :
    let t := run (.pidUpdate .c0) (fun b => { b with
        opA := 0x3FB999999999999A#64
        opB := 0x3FE0000000000000#64
        ch := ⟨{ b.ch.c0 with pid := { Pid.reset with kp := 0x4000000000000000#64, ki := 0x3FF0000000000000#64, kd := 0x3FE0000000000000#64, outputMin := 0xBFF0000000000000#64, outputMax := 0x3FF0000000000000#64, integralMin := 0xC024000000000000#64, integralMax := 0x4024000000000000#64, integral := 0xBFB999999999999A#64, lastInput := some 0x3FC999999999999A#64, lastOutput := some 0xBFD3333333333333#64 } }, b.ch.c1⟩ })
    t.rA = some 0xBFDCCCCCCCCCCCCE#64 ∧ t.ch.c0.pid.integral = 0xBFC3333333333334#64 := by decide +kernel

/-- V6.3, the narrower bounds: an output at its bound is not integrated. -/
theorem test_pid_windup :
    let t := run (.pidUpdate .c0) (fun b => { b with
        opA := 0x3FB999999999999A#64
        opB := 0x3FE0000000000000#64
        ch := ⟨{ b.ch.c0 with pid := { Pid.reset with kp := 0x4000000000000000#64, ki := 0x3FF0000000000000#64, kd := 0x3FE0000000000000#64, outputMin := 0xBFB999999999999A#64, outputMax := 0x3FB999999999999A#64, integralMin := 0xC024000000000000#64, integralMax := 0x4024000000000000#64, integral := 0xBFB999999999999A#64, lastInput := some 0x3FC999999999999A#64, lastOutput := some 0xBFB999999999999A#64 } }, b.ch.c1⟩ })
    t.rA = some 0xBFB999999999999A#64 ∧ t.ch.c0.pid.integral = 0xBFB999999999999A#64 := by decide +kernel

/-- V6.5. -/
theorem test_pid_update_ki :
    (run (.pidUpdateKi .c0) (fun b => { b with opA := 0x401C000000000000#64, ch := ⟨{ b.ch.c0 with pid := { Pid.reset with ki := 0x4008000000000000#64, integral := 0x3FF0000000000000#64 } }, b.ch.c1⟩ })).ch.c0.pid.integral = 0x3FDB6DB6DB6DB6DB#64 ∧
    (run (.pidUpdateKi .c0) (fun b => { b with opA := 0#64, ch := ⟨{ b.ch.c0 with pid := { Pid.reset with ki := 0x4000000000000000#64, integral := 0x4010000000000000#64 } }, b.ch.c1⟩ })).ch.c0.pid.integral = 0#64 := by decide +kernel

/-- P2, word 5. -/
theorem test_pid_set_param :
    let t := run (.pidSetParam .c1 .outputMax) (fun b => { b with opA := 0x4000000000000000#64 })
    t.ch.c1.pid = { Pid.reset with outputMax := 0x4000000000000000#64 } ∧ t.ch.c0.pid = Pid.reset := by decide +kernel

/-- V7.6, the fifth tick. -/
theorem test_iir_tick :
    let t := run (.iirTick .c0) (fun b => { b with opA := 0x3FF0000000000000#64, ch := ⟨{ b.ch.c0 with iir := ⟨⟨0x3FF0000000000000#64, 0x3FF0000000000000#64, 0x3FF0000000000000#64, 0x3FF0000000000000#64, 0x3FF0000000000000#64⟩, ⟨0xBFF0000000000000#64, 0xBFF0000000000000#64, 0xC02A000000000000#64, 0xC01C000000000000#64, 0xC008000000000000#64⟩, 0#64⟩ }, b.ch.c1⟩ })
    t.rA = some 0xC037000000000000#64 ∧ t.ch.c0.iir.xy = ⟨0xBFF0000000000000#64, 0xBFF0000000000000#64, 0xC037000000000000#64, 0xC02A000000000000#64, 0xC01C000000000000#64⟩ := by decide +kernel

/-- V7.3, the fourth tick: a1 is added. -/
theorem test_iir_tick_feedback :
    (run (.iirTick .c0) (fun b => { b with opA := 0xBFF0000000000000#64, ch := ⟨{ b.ch.c0 with iir := ⟨⟨0x3FB999999999999A#64, 0x0000000000000000#64, 0x0000000000000000#64, 0x3FECCCCCCCCCCCCD#64, 0x0000000000000000#64⟩, ⟨0x3FF0000000000000#64, 0x3FF0000000000000#64, 0x3FD15810624DD2F2#64, 0x3FC851EB851EB852#64, 0x3FB999999999999A#64⟩, 0#64⟩ }, b.ch.c1⟩ })).rA = some 0x3FD6027525460AA7#64 := by decide +kernel

/-- V7.5's coefficients. -/
theorem test_iir_set_coeff :
    (run (.iirSetCoeff .c0 .a1) (fun b => { b with opA := 0x3FF0000000000000#64 })).ch.c0.iir.ba = ⟨0x0000000000000000#64, 0x0000000000000000#64, 0x0000000000000000#64, 0x3FF0000000000000#64, 0x0000000000000000#64⟩ := by decide +kernel

/-- V7.4. -/
theorem test_iir_set_target :
    (run (.iirSetTarget .c0) (fun b => { b with opA := 0x4039000000000000#64 })).ch.c0.iir.target = 0x4039000000000000#64 := by decide +kernel

/-- V7.7: slot 1 sees slot 0's output of the tick before. -/
theorem test_mtx_tick :
    let t := run .mtxTick (fun b => { b with
        mtx := { b.mtx with
          m0 := { b.mtx.m0 with ba := ⟨0x3FF0000000000000#64, 0x0000000000000000#64, 0x0000000000000000#64, 0x0000000000000000#64, 0x0000000000000000#64⟩, inConst := 0x4000000000000000#64, out := 0xBFF0000000000000#64 }
          m1 := { b.mtx.m1 with ba := ⟨0x3FF0000000000000#64, 0x0000000000000000#64, 0x0000000000000000#64, 0x0000000000000000#64, 0x0000000000000000#64⟩, inSel := .filter .k0 } } })
    t.mtx.m0.out = 0xC000000000000000#64 ∧ t.mtx.m1.out = 0x3FF0000000000000#64 := by decide +kernel

/-- V7.9: a slot whose temperature is absent holds. -/
theorem test_mtx_tick_absent :
    let m : MtxSlot := ⟨⟨0x3FE0000000000000#64, 0x0000000000000000#64, 0x0000000000000000#64, 0x3FF0000000000000#64, 0x0000000000000000#64⟩, ⟨0x4014000000000000#64, 0x0000000000000000#64, 0x4004000000000000#64, 0x0000000000000000#64, 0x0000000000000000#64⟩, .temp .c0, 0#64, .const, 0x4039000000000000#64, 0x4004000000000000#64⟩
    (run .mtxTick (fun b => { b with mtx := { b.mtx with m0 := m } })).mtx.m0 = m := by decide +kernel

/-- P5, word 3. -/
theorem test_mtx_set_coeff :
    let t := run (.mtxSetCoeff .k1 .b0) (fun b => { b with opA := 0x3FF0000000000000#64 })
    t.mtx.m1.ba = ⟨0x3FF0000000000000#64, 0x0000000000000000#64, 0x0000000000000000#64, 0x0000000000000000#64, 0x0000000000000000#64⟩ ∧ t.mtx.m0 = MtxSlot.reset := by decide +kernel

/-- P5, word 4. -/
theorem test_mtx_set_source :
    let t := run (.mtxSetSource .k1 .input (.filter .k0)) (fun b => b)
    t.mtx.m1.inSel = .filter .k0 ∧ t.mtx.m1.tgtSel = .const := by decide +kernel

/-- V8.1. -/
theorem test_ch_convert_data :
    (run (.chConvertData .c0) (fun b => { b with
        opD := 0x900000#32
        ch := ⟨{ b.ch.c0 with cal := some ⟨0x7FFFF0#24, 0x555555#24, true⟩ }, b.ch.c1⟩ })).rA = some 0x3FBB00241B00001B#64 := by decide +kernel

/-- V8.1, P6: no calibration. -/
theorem test_ch_convert_data_none :
    let t := run (.chConvertData .c1) (fun b => { b with opD := 0x900000#32 })
    t.rStatus = 4#8 ∧ t.rD = some 1#32 := by decide +kernel

/-- V8.2: the sentinel, and a difference that wraps. -/
theorem test_ch_sample :
    let t := run (.chSample .c0) (fun b => { b with
        opD := 0xFFFFFF#32
        opM := 0x00000064#32
        ch := ⟨{ b.ch.c0 with adcData := some 1#24, adcTime := some 0xFFFFFF00#32 }, b.ch.c1⟩ })
    t.ch.c0.adcData = none ∧ t.ch.c0.adcTime = some 0x64#32 ∧ t.ch.c0.adcInterval = some 0x3FD6C8B439581062#64 := by decide +kernel

/-- V8.3: no sample. -/
theorem test_ch_get_temperature :
    (run (.chGetTemperature .c0) (fun b => { b with ch := ⟨calibrated b.ch.c0, b.ch.c1⟩ })).rA = none := by decide +kernel

/-- V8.4. -/
theorem test_ch_set_i :
    let t := run (.chSetI .c0) (fun b => { b with
        opA := 0x3FC999999999999A#64
        ch := ⟨{ b.ch.c0 with pidEngaged := true, center := .override 0x3FF8000000000000#64 }, b.ch.c1⟩
        script := [ans []] })
    t.rD = some 83885#32 ∧ t.ch.c0.pidEngaged = false ∧ sentBytes t = [[0x05#8, 0x1E#8, 0xB4#8]] := by decide +kernel

/-- V8.4. -/
theorem test_ch_get_i :
    (run (.chGetI .c0) (fun b => { b with ch := ⟨{ b.ch.c0 with dacCode := 83885#18, center := .override 0x3FF8000000000000#64 }, b.ch.c1⟩ })).rA = some 0x3FC998A666299980#64 := by decide +kernel

/-- V8.5. -/
theorem test_ch_set_dac_volts :
    (run (.chSetDacVolts .c0) (fun b => { b with opA := 0x4004000000000000#64, script := [ans []] })).rD = some 131071#32 := by decide +kernel

/-- V8.9. -/
theorem test_ch_set_center :
    let t := run (.chSetCenter .c0 .vref) (fun b => { b with
        ch := ⟨{ b.ch.c0 with dacCode := 83885#18, center := .override 0x3FF8000000000000#64, vrefMeas := 0x3FFA666666666666#64 }, b.ch.c1⟩
        script := [ans []] })
    t.ch.c0.dacCode = 91749#18 ∧ sentBytes t = [[0x05#8, 0x99#8, 0x94#8]] := by decide +kernel

/-- V8.8. -/
theorem test_ch_set_center_engaged :
    let t := run (.chSetCenter .c0 .override) (fun b => { b with opA := 0x3FF8000000000000#64, ch := ⟨{ b.ch.c0 with pidEngaged := true }, b.ch.c1⟩ })
    t.ch.c0.center = .override 0x3FF8000000000000#64 ∧ sentBytes t = [] := by decide +kernel

/-- R202 to R204. -/
theorem test_ch_settings :
    (run (.chSetPidEngaged .c0 true) (fun b => b)).ch.c0.pidEngaged = true ∧ (run (.chSetIirEngaged .c1 true) (fun b => b)).ch.c1.iirEngaged = true ∧
    (run (.chSetMtxSel .c0 (some .k2)) (fun b => b)).ch.c0.mtxSel = some .k2 := by decide +kernel

/-- R205. -/
theorem test_ch_set_tec_en :
    let t := run (.chSetTecEn .c1 true) (fun b => b)
    t.ch.c1.tecEn = true ∧ t.hist.tail = [.pin (.tecEn .c1) .high] := by decide +kernel

/-- R206. -/
theorem test_ch_set_pwm_limit :
    (run (.chSetPwmLimit .c0 .maxV) (fun b => { b with opA := 0x4010000000000000#64 })).ch.c0.pwm = ⟨0#64, 0#64, 0x4010000000000000#64⟩ := by decide +kernel

/-- A sampler whose feedback is v / 262143 * 5.0 (V8.11). -/
def linear (vref : F64) : Sampler where
  vref := vref
  fb := fun v => F64.mul (F64.div (F64.ofNat v) (F64.ofNat 262143)) (F64.ofNat 5)

/-- A sampler whose feedback is 0 for the codes 0 and 1 and 5.0 V above them. -/
def abrupt : Sampler where
  vref := 0x3FF8000000000000#64
  fb := fun v => if v ≤ 1 then 0#64 else 0x4014000000000000#64

/-- A sampler whose feedback is above its target at every code. -/
def refused : Sampler where
  vref := 0x3FF8000000000000#64
  fb := fun _ => 0x4014000000000000#64

/-- One feedback sample. -/
def volt (v : F64) : Answer := ⟨false, [], v⟩

/-- The answers of agents that take every code, the DAC sending some bytes back, and settle at once. -/
def prompt (p : Params) (w : Sampler) : CalAnswers where
  vref := match p.calMode with | .factor => [] | .vrefBias => [volt w.vref, volt w.vref]
  visits := (calVisits p w).map (fun v => ⟨v, ans [0xA5#8], [volt (w.fb v), volt (w.fb v)]⟩)
  zero := ans [0x01#8, 0x02#8, 0x03#8, 0x04#8]

/-- The same with one sample of 5.0 V before the first code's two: one retry. -/
def hesitant (p : Params) (w : Sampler) : CalAnswers :=
  { prompt p w with
    visits := match (prompt p w).visits with
      | v :: vs => { v with samples := volt 0x4014000000000000#64 :: v.samples } :: vs
      | [] => [] }

/-- V8.11, first row. -/
theorem test_ch_calibrate_dac :
    let t := run (.chCalibrateDac .c0) (fun b => { b with script := (prompt b.cfg (linear 0x3FF8000000000000#64)).all })
    t.rD = some 78642#32 ∧ t.ch.c0.vrefMeas = 0x3FF7FFEDFFFB7FFE#64 ∧ t.ch.c0.dacCode = 0#18 ∧
      (t.hist.filter (fun e => match e with | .spi (.dac .c0) _ _ => true | _ => false)).length = 45 := by decide +kernel

/-- V8.11, fourth row. -/
theorem test_ch_calibrate_dac_factor :
    let t := run (.chCalibrateDac .c0) (fun b => { b with
        cfg := { b.cfg with calMode := .factor }
        script := (prompt { b.cfg with calMode := .factor } (linear 0#64)).all })
    t.rD = some 131071#32 ∧ t.ch.c0.dacFs = 0x4014000500028001#64 := by decide +kernel

/-- V8.10. -/
theorem test_ch_read_field :
    (run (.chReadField 0#3 0xF8#8) (fun b => b)).rD = some 1#32 ∧ (run (.chReadField 0#3 0x10#8) (fun b => b)).rA = some 0x4072A26666666666#64 ∧
    (run (.chReadField 0#3 0x13#8) (fun b => b)).rD = none ∧ (run (.chReadField 0#3 0xF0#8) (fun b => b)).rD = some 0#32 := by decide +kernel

/-- V8.12, call 4: the sentinel powers the driver down. -/
theorem test_poll_adc :
    let t := run .pollAdc (fun b => { b with
        ckmode := .crc
        opM := 1200#32
        ch := ⟨{ calibrated b.ch.c0 with pidEngaged := true, tecEn := true, adcTime := some 1100#32 }, b.ch.c1⟩
        script := [ans [], ans [0x00#8], ans [0x5B#8], ans [], ans [0xFF#8, 0xFF#8, 0xFF#8], ans [0xCC#8]] })
    t.rD = some 0#32 ∧ t.ch.c0.tecEn = false ∧ t.ch.c0.adcInterval = some 0x3FB999999999999A#64 ∧ (sentBytes t).length = 6 := by decide +kernel

/-- V8.12, call 5. -/
theorem test_poll_adc_other_channel :
    let t := run .pollAdc (fun b => { b with
        ckmode := .crc
        script := [ans [], ans [0x02#8], ans [0x55#8], ans [], ans [0x80#8, 0x00#8, 0x00#8], ans [0xC8#8]] })
    t.rD = none ∧ t.ch = ⟨Channel.reset, Channel.reset⟩ ∧ (sentBytes t).length = 6 := by decide +kernel

/-- R214. -/
theorem test_block_init :
    let t := run .blockInit (fun b => { b with
        script := replies (initFrames b.cfg freshAdc) ++ ((prompt b.cfg abrupt).all ++ (hesitant b.cfg abrupt).all) })
    t.rStatus = 0#8 ∧ t.rD = some 0x00DB#32 ∧ t.phase = .run ∧ t.sync = ⟨some .high, some .high⟩ ∧ t.script = [] := by decide +kernel

/-- V3.2's frames, bare. -/
theorem test_spi_read_cmd :
    (run (.spiReadCmd 0x07#6) (fun b => { b with ckmode := .crc, script := [ans [], ans [0x00#8, 0xD0#8], ans [0xAE#8]] })).rD = some 0xD0#32 ∧
    (run (.spiReadCmd 0x07#6) (fun b => { b with ckmode := .crc, script := [ans [], ans [0x00#8, 0xD0#8], ans [0x00#8]] })).rD = none := by decide +kernel

/-- V3.6's write frame, bare: a write is checked with CRC. -/
theorem test_spi_write_cmd :
    sentBytes (run (.spiWriteCmd 0x01#6) (fun b => { b with ckmode := .xor, opD := 0x0060#32, script := [ans [], ans [], ans []] })) =
    [[0x01#8], [0x00#8, 0x60#8], [0x4C#8]] := by decide +kernel

/-- R135. -/
theorem test_spi_reset_frame :
    (run .spiResetFrame (fun b => { b with ckmode := .xor, script := [ans []] })).ckmode = .off := by decide +kernel

/-- V4.1. -/
theorem test_dac_word :
    let t := run (.dacWord 0x2AAAA#18) (fun b => { b with script := [ans []] })
    t.ch.c0.dacCode = 0x2AAAA#18 ∧ sentBytes t = [[0x0A#8, 0xAA#8, 0xA8#8]] := by decide +kernel

/-! Witnesses: a state and operands that meet all hypotheses of a statement together, one theorem for each statement that has
hypotheses, each clause at a boundary of its range. -/

/-- The first answers of the agents are those of the frames. -/
def answering (m : CkMode) (fs : List Frame) : State := st (fun b => { b with ckmode := m, script := replies fs })

/-- DecodeOfEncode: well-formed instructions exist, at the ends of their ranges. -/
theorem witness_DecodeOfEncode :
    Instr.wellFormed defaultTables (.adcWriteReg 0x3B#6) = true ∧ Instr.wellFormed defaultTables (.adcReadReg 0x00#6) = true ∧
    Instr.wellFormed defaultTables (.chReadField 0b111#3 0x6E#8) = true := by decide

/-- Hypotheses of EncodeOfDecode. -/
theorem witness_EncodeOfDecode :
    decode defaultTables (.cmd32 0x6DE0006E#32) = .ok (.chReadField 0b111#3 0x6E#8) := by decide

/-- Hypotheses of StepRunsDecodedInstruction. -/
theorem witness_StepRunsDecodedInstruction :
    ∃ (s w i r : State) (x : Running), (s.running = none ∧ s.pending = .command ∧ decode s.cfg.tables (.cmd32 s.cmd) = .ok .mtxTick) ∧
      (w.running = none ∧ w.pending = .wire (.spi8 0x47#8) ∧ decode w.cfg.tables (.spi8 0x47#8) = .ok (.spiReadCmd 0x07#6)) ∧
      (i.running = none ∧ i.pending = .idle) ∧ r.running = some x := ⟨{ State.reset with cmd := 0x54000000#32, pending := .command }, { State.reset with pending := .wire (.spi8 0x47#8) },
    State.reset, { State.reset with running := some ⟨.adcIdentify, Block.reset⟩ }, ⟨.adcIdentify, Block.reset⟩,
    ⟨rfl, rfl, by decide⟩, ⟨rfl, rfl, by decide⟩, ⟨rfl, rfl⟩, rfl⟩

/-- Hypotheses of RefusedWordEndsIllegal. -/
theorem witness_RefusedWordEndsIllegal :
    ∃ s u : State, (s.running = none ∧ s.pending = .command ∧ decode s.cfg.tables (.cmd32 s.cmd) = .error .opc) ∧
      (u.running = none ∧ u.pending = .wire (.spi8 0x80#8) ∧ decode u.cfg.tables (.spi8 0x80#8) = .error .wire) ∧
      decode defaultTables (.dac24 0x000001#24) = .error .wire ∧ decode defaultTables (.reset64 0#64) = .error .wire := ⟨{ State.reset with pending := .command }, { State.reset with pending := .wire (.spi8 0x80#8) }, ⟨rfl, rfl, by decide⟩,
    ⟨rfl, rfl, by decide⟩, by decide, by decide⟩

/-- Hypotheses of IllegalCommandOnlyAtDecode. -/
theorem witness_IllegalCommandOnlyAtDecode :
    isWire (.adcReadReg 0x3B#6) = false ∧ commandLegal (.adcReadReg 0x3B#6) State.reset = true ∧
      commandLegal (.adcReadReg 0x05#6) State.reset = false ∧
      commandLegal (.chConvertData .c0) (st (fun b => { b with opD := 0x00FFFFFF#32 })) = true ∧
      commandLegal (.chConvertData .c0) (st (fun b => { b with opD := 0x01000000#32 })) = false ∧
      (∃ t, exec (.chConvertData .c0) (st (fun b => { b with opD := 0x00FFFFFF#32 })) = .next t ∧ t.running = none) := ⟨by decide, by decide, by decide, by decide, by decide, _, rfl, by decide⟩

/-- Hypotheses of StepKeepsInv. -/
theorem witness_StepKeepsInv :
    ∃ s t : State, InOrder s ∧ s.pending = .command ∧ step s = .next t ∧ t.ch.c0.dacCode = 0x3FFFF#18 := ⟨{ st (fun b => { b with cmd := 0x21000000#32, opD := 0x3FFFF#32, script := [ans []] }) with pending := .command }, _,
    ⟨by decide +kernel, rfl⟩, rfl, rfl, by decide +kernel⟩

/-- Hypotheses of CommandEndWritesResults. -/
theorem witness_CommandEndWritesResults :
    (∃ t, exec .adcReset (st (fun b => { b with script := [failing] })) = .next t ∧ t.running = none ∧ t.rStatus = 1#8) ∧
      (∃ t, exec (.adcReadReg 0x00#6) (st (fun b => { b with ckmode := .xor, grant := 0, script := [ans [], ans [], ans []] })) = .next t ∧
        t.running.isSome = true) := ⟨⟨_, rfl, by decide⟩, _, rfl, by decide +kernel⟩

/-- Hypotheses of FiniteRetryLimitTerminates. -/
theorem witness_FiniteRetryLimitTerminates :
    ∃ t, (st (fun b => { b with cfg := { b.cfg with retryLimit := some 0 } })).cfg.retryLimit = some 0 ∧
      exec .mtxTick (st (fun b => { b with cfg := { b.cfg with retryLimit := some 0 } })) = .next t := ⟨_, rfl, rfl⟩

/-- Hypotheses of SequencerAndMatrixWriters. -/
theorem witness_SequencerAndMatrixWriters :
    ∃ t, exec (.chSetTecEn .c0 true) State.reset = .next t ∧ Instr.chSetTecEn .c0 true ≠ .adcInit ∧
      (∀ m, Instr.chSetTecEn .c0 true ≠ .ckInit m) ∧ (∀ k r c, Instr.chSetTecEn .c0 true ≠ .mtxSetSource k r c) ∧
      readsAdcRegister (.chSetTecEn .c0 true) = false := ⟨_, rfl, by decide, fun _ h => (by cases h), fun _ _ _ h => (by cases h), rfl⟩

/-- Hypotheses of ChannelFieldWriters. -/
theorem witness_ChannelFieldWriters :
    ∃ t, exec (.pidUpdate .c1) State.reset = .next t ∧ Instr.pidUpdate .c1 ≠ .pidUpdate .c0 ∧
      (∀ p, Instr.pidUpdate .c1 ≠ .pidSetParam .c0 p) ∧ (∀ f, Instr.pidUpdate .c1 ≠ .chSetTecEn .c0 f) := ⟨_, rfl, by decide, fun _ h => (by cases h), fun _ h => (by cases h)⟩

/-- Hypotheses of CalibrationCapturedOnce. -/
theorem witness_CalibrationCapturedOnce :
    ∃ (s t : State) (k : AdcCal), exec .adcInit s = .next t ∧ (s.ch.get .c1).cal = some k := ⟨st (fun b => { b with ch := ⟨b.ch.c0, calibrated b.ch.c1⟩ }), _, _, rfl, rfl⟩

/-- Hypotheses of CrcMatchesByteWiseForm. -/
theorem witness_CrcMatchesByteWiseForm :
    ckValue (ckFeedBytes (ckNew .crc) []) = some 0x00#8 ∧ ckValue (ckFeedBytes (ckNew .crc) [0xFF#8]) = some 0xF3#8 := by decide

/-- Hypotheses of PayloadsAreBigEndian. -/
theorem witness_PayloadsAreBigEndian :
    (0#32).toNat < 2 ^ (8 * 0) ∧ (0x00FFFFFF#32).toNat < 2 ^ (8 * 3) ∧ (0xFFFFFFFF#32).toNat < 2 ^ (8 * 4) ∧
    [0xFF#8, 0x00#8, 0x01#8].length ≤ 4 := by decide

/-- Hypotheses of UpdatesKeepOtherBits. -/
theorem witness_UpdatesKeepOtherBits :
    outside 7 [defaultRegs.mode] ∧ outside 3 [defaultRegs.mode] ∧ outside 1 [defaultRegs.crcEn] ∧
      outside 13 [defaultRegs.biUnipolar, defaultRegs.refBufPos, defaultRegs.refBufNeg, defaultRegs.ainBufPos, defaultRegs.ainBufNeg,
        defaultRegs.refSel] ∧
      outside 7 [defaultRegs.enhFiltEn, defaultRegs.enhFilt, defaultRegs.order, defaultRegs.odr] ∧
      outside 14 [defaultRegs.chEn, defaultRegs.setupSel, defaultRegs.ainPos, defaultRegs.ainNeg] ∧
      outside 12 [defaultRegs.enhFiltEn, defaultRegs.enhFilt] ∧ outside 10 [defaultRegs.enhFiltEn] ∧
      defaultRegs.mode.lo ≤ 4 ∧ 6 ≤ defaultRegs.mode.hi := by unfold outside; decide

/-- Hypotheses of AdcFrameReleasesChipSelect. -/
theorem witness_AdcFrameReleasesChipSelect :
    [ans [], ans [0x01#8]].all (fun x => !x.fails) = true ∧ failing.fails = true ∧
      [[0x47#8], [0x00#8, 0x00#8]].length = [ans [], ans [0x01#8]].length ∧
      (st (fun b => { b with script := [ans [], ans [0x01#8], failing] })).script = [ans [], ans [0x01#8]] ++ failing :: [] := by decide

/-- Hypotheses of AdcResetCompletes. -/
theorem witness_AdcResetCompletes :
    (answering .crc [.reset]).nss = .high ∧ converses (answering .crc [.reset]).toBlock [.reset] (replies [.reset]) [] ∧
      (st (fun b => { b with script := [failing] })).script = failing :: [] ∧ failing.fails = true := ⟨rfl, ⟨by decide +kernel, by decide +kernel, rfl⟩, rfl, rfl⟩

/-- Two reads of ID refused for their checksum, then a good one. -/
def badReads : List (List Byte × Byte) := [([0x00#8, 0xD0#8], 0x00#8), ([0xFF#8, 0xFF#8], 0xAE#8)]

/-- The frames of those reads. -/
def retriedRead : List Frame :=
  badReads.map (fun q => Frame.corrupt .crc 0x07#6 q.1 q.2) ++ [.read .crc 0x07#6 [0x00#8, 0xD0#8]]

/-- Hypotheses of AdcReadRegCompletes. -/
theorem witness_AdcReadRegCompletes :
    (answering .crc retriedRead).nss = .high ∧ (answering .crc retriedRead).cfg.tables.regs.known 0x07#6 = true ∧
      mayRetry (answering .crc retriedRead).toBlock badReads.length ∧
      converses (answering .crc retriedRead).toBlock retriedRead (replies retriedRead) [] ∧ defaultRegs.known 0x3B#6 = true := ⟨rfl, by decide, (by decide : 2 ≤ 1000), ⟨by decide +kernel, by decide +kernel, rfl⟩, by decide⟩

/-- Hypotheses of AdcReadRegRetryBudget. -/
theorem witness_AdcReadRegRetryBudget :
    ∃ (s u : State) (as : List Answer), s.nss = .high ∧ u.nss = .high ∧ s.cfg.tables.regs.known 0x07#6 = true ∧
      u.cfg.tables.regs.known 0x07#6 = true ∧
      converses s.toBlock (badReads.map (fun q => Frame.corrupt s.ckmode 0x07#6 q.1 q.2)) as [] ∧
      s.cfg.retryLimit = some 1 ∧ badReads.length = 1 + 1 ∧
      converses u.toBlock (badReads.map (fun q => Frame.corrupt u.ckmode 0x07#6 q.1 q.2)) as [] ∧
      u.cfg.retryLimit = none ∧ badReads.length = u.grant + 1 := ⟨st (fun b => { b with ckmode := .crc, cfg := { b.cfg with retryLimit := some 1 }, script := replies (retriedRead.take 2) }),
    st (fun b => { b with ckmode := .crc, grant := 1, script := replies (retriedRead.take 2) }), replies (retriedRead.take 2),
    rfl, rfl, by decide, by decide, ⟨by decide +kernel, by decide +kernel, rfl⟩, rfl, rfl, ⟨by decide +kernel, by decide +kernel, rfl⟩, rfl, rfl⟩

/-- Hypotheses of AdcReadsComplete. -/
theorem witness_AdcReadsComplete :
    converses (answering .xor [.read .xor defaultRegs.status [0x81#8]]).toBlock [.read .xor defaultRegs.status [0x81#8]] (replies [.read .xor defaultRegs.status [0x81#8]]) [] ∧
      converses (answering .off [.read .off defaultRegs.data [0x12#8, 0x34#8, 0x56#8]]).toBlock [.read .off defaultRegs.data [0x12#8, 0x34#8, 0x56#8]]
        (replies [.read .off defaultRegs.data [0x12#8, 0x34#8, 0x56#8]]) [] ∧
      converses (answering .crc [.read .crc (defaultRegs.filtCon + chNumber .c1) [0x0E#8, 0x0A#8]]).toBlock
        [.read .crc (defaultRegs.filtCon + chNumber .c1) [0x0E#8, 0x0A#8]] (replies [.read .crc (defaultRegs.filtCon + chNumber .c1) [0x0E#8, 0x0A#8]]) [] := ⟨⟨by decide +kernel, by decide +kernel, rfl⟩, ⟨by decide +kernel, by decide +kernel, rfl⟩, ⟨by decide +kernel, by decide +kernel, rfl⟩⟩

/-- ADC_WRITE_REG of 0x0060 to ADCMODE with one readback that disagrees (V3.6). -/
def rewritten : List Frame :=
  [.write .crc 0x01#6 [0x00#8, 0x60#8], .read .crc 0x01#6 [0x00#8, 0x00#8], .write .crc 0x01#6 [0x00#8, 0x60#8],
    .read .crc 0x01#6 [0x00#8, 0x60#8]]

/-- Hypotheses of AdcWriteRegCompletes. -/
theorem witness_AdcWriteRegCompletes :
    ∃ s : State, s.nss = .high ∧ s.cfg.tables.regs.writable 0x01#6 = true ∧ s.opD.toNat < 2 ^ (8 * s.cfg.tables.regs.width 0x01#6) ∧
      mayRetry s.toBlock [[0x00#8, 0x00#8]].length ∧ (∀ q ∈ [[0x00#8, 0x00#8]], q ≠ bytesBe (s.cfg.tables.regs.width 0x01#6) s.opD) ∧
      rewritten = [[0x00#8, 0x00#8]].flatMap (fun q => [Frame.write s.ckmode 0x01#6 (bytesBe (s.cfg.tables.regs.width 0x01#6) s.opD), .read s.ckmode 0x01#6 q]) ++
        [.write s.ckmode 0x01#6 (bytesBe (s.cfg.tables.regs.width 0x01#6) s.opD), .read s.ckmode 0x01#6 (bytesBe (s.cfg.tables.regs.width 0x01#6) s.opD)] ∧
      converses s.toBlock rewritten (replies rewritten) [] := ⟨st (fun b => { b with ckmode := .crc, opD := 0x0060#32, script := replies rewritten }),
    rfl, by decide, by decide, (by decide : 1 ≤ 1000), by decide, by decide, ⟨by decide +kernel, by decide +kernel, rfl⟩⟩

/-- Hypotheses of AdcUpdateRegCompletes. -/
theorem witness_AdcUpdateRegCompletes :
    ∃ (s : State) (as : List Answer), s.nss = .high ∧ s.cfg.tables.regs.writable 0x01#6 = true ∧ s.opD.toNat < 2 ^ (8 * s.cfg.tables.regs.width 0x01#6) ∧
      s.opM.toNat < 2 ^ (8 * s.cfg.tables.regs.width 0x01#6) ∧ converses s.toBlock (updateFrames s.ckmode 0x01#6 [0x20#8, 0x00#8] (withBits s.opM s.opD)) as [] := ⟨st (fun b => { b with
      ckmode := .crc
      opD := 0x0060#32
      opM := 0xFFFF#32
      script := replies (updateFrames .crc 0x01#6 [0x20#8, 0x00#8] (withBits 0xFFFF#32 0x0060#32)) }),
    _, rfl, by decide, by decide, by decide, ⟨by decide +kernel, by decide +kernel, (List.append_nil _).symm⟩⟩

/-- ID reads of a wrong family and of the right one (V3.3). -/
def idReads : List Frame := [.read .crc 0x07#6 [0x12#8, 0x34#8], .read .crc 0x07#6 [0x00#8, 0xDB#8]]

/-- Hypotheses of AdcIdentifyCompletes. -/
theorem witness_AdcIdentifyCompletes :
    ∃ s : State, s.nss = .high ∧ mayRetry s.toBlock [[0x12#8, 0x34#8]].length ∧
      (∀ q ∈ [[0x12#8, 0x34#8]], isFamily s.cfg ((be q).setWidth 16) = false) ∧
      isFamily s.cfg ((be [0x00#8, 0xDB#8]).setWidth 16) = true ∧
      converses s.toBlock ([[0x12#8, 0x34#8]].map (Frame.read s.ckmode s.cfg.tables.regs.id) ++ [.read s.ckmode s.cfg.tables.regs.id [0x00#8, 0xDB#8]]) (replies idReads) [] := ⟨answering .crc idReads, rfl, (by decide : 1 ≤ 1000), by decide, by decide, ⟨by decide +kernel, by decide +kernel, rfl⟩⟩

/-- Hypotheses of AdcSetChecksumModeCompletes. -/
theorem witness_AdcSetChecksumModeCompletes :
    (answering .crc (updateFrames .crc defaultRegs.ifMode [0x00#8, 0x08#8] (withCrcEn defaultRegs .off))).nss = .high ∧
      converses (answering .crc (updateFrames .crc defaultRegs.ifMode [0x00#8, 0x08#8] (withCrcEn defaultRegs .off))).toBlock (updateFrames .crc defaultRegs.ifMode [0x00#8, 0x08#8] (withCrcEn defaultRegs .off)) (replies (updateFrames .crc defaultRegs.ifMode [0x00#8, 0x08#8] (withCrcEn defaultRegs .off))) [] := ⟨rfl, ⟨by decide +kernel, by decide +kernel, (List.append_nil _).symm⟩⟩

/-- Hypotheses of AdcSetupChannelCompletes. -/
theorem witness_AdcSetupChannelCompletes :
    (answering .crc (setupFrames defaultTables .crc .c1 0b01010#5 0b00010#5 0b00011#5 [0x00#8, 0x00#8] [0xFF#8, 0xFF#8] [0x00#8, 0x01#8])).nss = .high ∧ 0b00010#5 ∈ defaultRegs.selectors ∧ 0b00011#5 ∈ defaultRegs.selectors ∧ (st (fun b => b)).cfg.setupOdr = 0b01010#5 ∧
      converses (answering .crc (setupFrames defaultTables .crc .c1 0b01010#5 0b00010#5 0b00011#5 [0x00#8, 0x00#8] [0xFF#8, 0xFF#8] [0x00#8, 0x01#8])).toBlock (setupFrames defaultTables .crc .c1 0b01010#5 0b00010#5 0b00011#5 [0x00#8, 0x00#8] [0xFF#8, 0xFF#8] [0x00#8, 0x01#8]) (replies (setupFrames defaultTables .crc .c1 0b01010#5 0b00010#5 0b00011#5 [0x00#8, 0x00#8] [0xFF#8, 0xFF#8] [0x00#8, 0x01#8])) [] := ⟨rfl, by decide, by decide, rfl, ⟨by decide +kernel, by decide +kernel, (List.append_nil _).symm⟩⟩

/-- Hypotheses of AdcCalibrateOffsetCompletes. -/
theorem witness_AdcCalibrateOffsetCompletes :
    (answering .crc (calibrateFrames defaultRegs .crc [0x00#8, 0x00#8] [0x00#8, 0x60#8] [[0x80#8], [0xFF#8]] [0x7F#8])).nss = .high ∧ mayRetry (st (fun b => b)).toBlock 2 ∧ (∀ w ∈ [[0x80#8], [0xFF#8]], isReady defaultRegs w = false) ∧ isReady defaultRegs [0x7F#8] = true ∧
      converses (answering .crc (calibrateFrames defaultRegs .crc [0x00#8, 0x00#8] [0x00#8, 0x60#8] [[0x80#8], [0xFF#8]] [0x7F#8])).toBlock (calibrateFrames defaultRegs .crc [0x00#8, 0x00#8] [0x00#8, 0x60#8] [[0x80#8], [0xFF#8]] [0x7F#8]) (replies (calibrateFrames defaultRegs .crc [0x00#8, 0x00#8] [0x00#8, 0x60#8] [[0x80#8], [0xFF#8]] [0x7F#8])) [] := ⟨rfl, (by decide : 2 ≤ 1000), by decide, by decide, ⟨by decide +kernel, by decide +kernel, (List.append_nil _).symm⟩⟩

/-- Hypotheses of AdcGetCalibrationCompletes. -/
theorem witness_AdcGetCalibrationCompletes :
    (answering .crc (captureFrames defaultRegs .crc .c0 [0x80#8, 0x00#8, 0x00#8] [0x55#8, 0x55#8, 0x55#8] [0x1F#8, 0x00#8])).nss = .high ∧
      converses (answering .crc (captureFrames defaultRegs .crc .c0 [0x80#8, 0x00#8, 0x00#8] [0x55#8, 0x55#8, 0x55#8] [0x1F#8, 0x00#8])).toBlock (captureFrames defaultRegs .crc .c0 [0x80#8, 0x00#8, 0x00#8] [0x55#8, 0x55#8, 0x55#8] [0x1F#8, 0x00#8]) (replies (captureFrames defaultRegs .crc .c0 [0x80#8, 0x00#8, 0x00#8] [0x55#8, 0x55#8, 0x55#8] [0x1F#8, 0x00#8])) [] := ⟨rfl, ⟨by decide +kernel, by decide +kernel, (List.append_nil _).symm⟩⟩

/-- The two modifications of ADC_SET_POSTFILTER: the filter of code 0b110 on, and off. -/
def filterOn : BitVec 32 → BitVec 32 := withFields [(defaultRegs.enhFiltEn, 1), (defaultRegs.enhFilt, (0b110#3).toNat)]

def filterOff : BitVec 32 → BitVec 32 := withFields [(defaultRegs.enhFiltEn, 0)]

/-- Hypotheses of AdcSetPostfilterCompletes. -/
theorem witness_AdcSetPostfilterCompletes :
    0b110#3 ∈ defaultTables.postfilters.map (·.1) ∧ (answering .off []).nss = .high ∧
      converses (answering .off (updateFrames .off (defaultRegs.filtCon + chNumber .c1) [0x06#8, 0x0A#8] filterOn)).toBlock
        (updateFrames .off (defaultRegs.filtCon + chNumber .c1) [0x06#8, 0x0A#8] filterOn)
        (replies (updateFrames .off (defaultRegs.filtCon + chNumber .c1) [0x06#8, 0x0A#8] filterOn)) [] ∧
      converses (answering .off (updateFrames .off (defaultRegs.filtCon + chNumber .c0) [0x0E#8, 0x0A#8] filterOff)).toBlock
        (updateFrames .off (defaultRegs.filtCon + chNumber .c0) [0x0E#8, 0x0A#8] filterOff)
        (replies (updateFrames .off (defaultRegs.filtCon + chNumber .c0) [0x0E#8, 0x0A#8] filterOff)) [] := ⟨by decide, rfl, ⟨by decide +kernel, by decide +kernel, rfl⟩, ⟨by decide +kernel, by decide +kernel, rfl⟩⟩

/-- Hypotheses of PostfilterClosestIsNearest. -/
theorem witness_PostfilterClosestIsNearest :
    (∀ e ∈ State.reset.cfg.tables.postfilters, F64.isFinite e.2 = true) ∧ State.reset.cfg.tables.postfilters ≠ [] ∧
      F64.isNaN 0x7FF8000000000000#64 = true ∧ F64.isNaN 0x7FF0000000000000#64 = false ∧
      (st (fun b => { b with cfg := { b.cfg with tables := { defaultTables with postfilters := [] } } })).cfg.tables.postfilters = [] := ⟨List.all_eq_true.mp (by decide +kernel), List.cons_ne_nil _ _, by decide +kernel, by decide +kernel, rfl⟩

/-- Hypotheses of AdcInitCompletes. -/
theorem witness_AdcInitCompletes :
    ∃ (s : State) (as : List Answer), (s.nss = .high ∧ freshAdc.plausible s.cfg = true ∧ mayRetry s.toBlock freshAdc.waits.length ∧
      converses s.toBlock (initFrames s.cfg freshAdc) as []) ∧
      ((st (fun b => { b with script := [failing] })).nss = .high ∧
        (st (fun b => { b with script := [failing] })).script = failing :: [] ∧ failing.fails = true) ∧
      (∃ t, exec .adcInit s = .next t ∧ t.running = none ∧ t.phase = .run) ∧
      (∃ u t, exec .adcInit u = .next t ∧ t.running = none ∧ t.phase = .identify) ∧
      (∃ v t, exec .adcInit v = .next t ∧ t.running.isSome = true) := ⟨st (fun b => { b with script := replies (initFrames b.cfg freshAdc) }), _, ⟨rfl, by decide +kernel, (by decide : 0 ≤ 1000),
    by decide +kernel, by decide +kernel, (List.append_nil _).symm⟩, ⟨rfl, rfl, rfl⟩, ⟨_, rfl, by decide +kernel, by decide +kernel⟩,
    ⟨st (fun b => { b with script := [ans [], failing] }), _, rfl, by decide +kernel, by decide +kernel⟩,
    st (fun b => { b with grant := 0, script := [ans [], ans [], ans [0x12#8, 0x34#8]] }), _, rfl, by decide +kernel⟩

/-- Hypotheses of WireRegisterFramesComplete. -/
theorem witness_WireRegisterFramesComplete :
    converses (answering .crc [.read .crc 0x07#6 [0x00#8, 0xD0#8]]).toBlock [.read .crc 0x07#6 [0x00#8, 0xD0#8]]
        (replies [.read .crc 0x07#6 [0x00#8, 0xD0#8]]) [] ∧
      converses (answering .crc [.corrupt .crc 0x3B#6 [0x00#8, 0x00#8, 0x00#8] 0x00#8]).toBlock [.corrupt .crc 0x3B#6 [0x00#8, 0x00#8, 0x00#8] 0x00#8]
        (replies [.corrupt .crc 0x3B#6 [0x00#8, 0x00#8, 0x00#8] 0x00#8]) [] ∧
      converses (answering .xor [.write .xor 0x01#6 (bytesBe 2 0#32)]).toBlock [.write .xor 0x01#6 (bytesBe 2 0#32)]
        (replies [.write .xor 0x01#6 (bytesBe 2 0#32)]) [] ∧
      defaultRegs.known 0x3B#6 = true ∧ defaultRegs.known 0x05#6 = false ∧ defaultRegs.writable 0x01#6 = true ∧ defaultRegs.writable 0x07#6 = false ∧
      2 ^ (8 * defaultRegs.width 0x01#6) ≤ (st (fun b => { b with opD := 0x00010000#32 })).opD.toNat := ⟨⟨by decide +kernel, by decide +kernel, rfl⟩, ⟨by decide +kernel, by decide +kernel, rfl⟩, ⟨by decide +kernel, by decide +kernel, rfl⟩, by decide, by decide, by decide, by decide, by decide⟩

/-- Hypotheses of DacCodeCommandsComplete. -/
theorem witness_DacCodeCommandsComplete :
    ∃ s u : State, s.script = ans [] :: [] ∧ s.opD.toNat ≤ 0x3FFFF ∧ (ans []).fails = false ∧ u.script = failing :: [] ∧
      u.opD.toNat ≤ 0x3FFFF ∧ failing.fails = true := ⟨st (fun b => { b with opD := 0x3FFFF#32, script := [ans []] }), st (fun b => { b with script := [failing] }),
    rfl, by decide, rfl, rfl, by decide, rfl⟩

/-- Hypotheses of DacSetCodeRange. -/
theorem witness_DacSetCodeRange :
    ∃ s t : State, 0x3FFFF < s.opD.toNat ∧ (∀ ch, Instr.mtxTick ≠ .dacSetCode ch) ∧ exec .mtxTick s = .next t ∧ t.running = none := ⟨st (fun b => { b with opD := 0x40000#32 }), _, by decide, fun _ h => (by cases h), rfl, rfl⟩

/-- Hypotheses of DacPackingRecovers. -/
theorem witness_DacPackingRecovers :
    dacPack 0x3FFFF#18 = [0x0F#8, 0xFF#8, 0xFC#8] := by decide

/-- Hypotheses of DacSetVoltsCompletes. -/
theorem witness_DacSetVoltsCompletes :
    (st (fun b => { b with script := [ans []] })).script = ans [] :: [] ∧ (st (fun b => { b with script := [failing] })).script = failing :: [] ∧
      (ans []).fails = false ∧ failing.fails = true := ⟨rfl, rfl, rfl, rfl⟩

/-- Hypotheses of ToCodeSaturatesAndTruncates. -/
theorem witness_ToCodeSaturatesAndTruncates :
    F64.isNaN 0xFFF8000000000000#64 = true ∧ F64.le 0x8000000000000000#64 zeroF = true ∧ F64.le 0xFFF0000000000000#64 zeroF = true ∧
      F64.le (F64.ofNat 0x3FFFF) (F64.ofNat 0x3FFFF) = true ∧ F64.le (F64.ofNat 0x3FFFF) 0x7FF0000000000000#64 = true ∧
      F64.lt zeroF 0x0000000000000001#64 = true ∧ F64.lt 0x0000000000000001#64 (F64.ofNat 0x3FFFF) = true ∧
      F64.lt zeroF 0x410FFFF7FFFFFFFF#64 = true ∧ F64.lt 0x410FFFF7FFFFFFFF#64 (F64.ofNat 0x3FFFF) = true := by decide +kernel

/-- Hypotheses of PidOutputBounded. -/
theorem witness_PidOutputBounded :
    ∃ s t : State, F64.le (s.ch.get .c0).pid.outputMin (s.ch.get .c0).pid.outputMax = true ∧
      F64.le (s.ch.get .c0).pid.integralMin (s.ch.get .c0).pid.integralMax = true ∧ exec (.pidUpdate .c0) s = .next t ∧
      (∀ lo, (s.ch.get .c0).pid.lastOutput = some lo →
        ¬ (F64.lt (s.ch.get .c0).pid.outputMin lo = true ∧ F64.lt lo (s.ch.get .c0).pid.outputMax = true)) ∧
      F64.le (s.ch.get .c0).pid.integralMin (s.ch.get .c0).pid.integral = true ∧
      F64.le (s.ch.get .c0).pid.integral (s.ch.get .c0).pid.integralMax = true := ⟨st (fun b => { b with
      ch := ⟨{ b.ch.c0 with pid := { Pid.reset with outputMax := 0x3FF0000000000000#64, integralMax := 0x4000000000000000#64, integral := 0x4000000000000000#64, lastOutput := some 0x3FF0000000000000#64 } }, b.ch.c1⟩ }),
    _, by decide +kernel, by decide +kernel, rfl,
    fun lo h => by
      obtain rfl : 0x3FF0000000000000#64 = lo := by simpa [st, PerCh.get] using h
      decide +kernel,
    by decide +kernel, by decide +kernel⟩

/-- Hypotheses of ConvertDataCompletes. -/
theorem witness_ConvertDataCompletes :
    ∃ s : State, s.opD.toNat ≤ 0xFFFFFF ∧ (s.ch.get .c0).cal = some ⟨0x800000#24, 0x400000#24, true⟩ ∧ (s.ch.get .c1).cal = none := ⟨st (fun b => { b with opD := 0x00FFFFFF#32, ch := ⟨calibrated b.ch.c0, b.ch.c1⟩ }), by decide, rfl, rfl⟩

/-- Hypotheses of SampleCompletes. -/
theorem witness_SampleCompletes :
    (st (fun b => { b with opD := 0x00FFFFFF#32 })).opD.toNat ≤ 0xFFFFFF := by decide

/-- Hypotheses of FieldReadsComplete. -/
theorem witness_FieldReadsComplete :
    (0x52#8, ({ rA := some (F64.mul (F64.div (F64.ofNat 0) (F64.ofNat 262143)) dacFsNominal) } : Results)) ∈
        channelFields (st (fun b => b)).toBlock .c1 ∧
      (0x6E#8, ({ rA := some 0#64 } : Results)) ∈ matrixFields ((st (fun b => b)).mtx.get .k7) ∧
      (0xF8#8, ({ rD := some 1#32 } : Results)) ∈ blockFields (st (fun b => b)).toBlock ∧
      (∀ ch : Ch, 0b000#3 = chCode ch → 0x14#8 ∉ (channelFields (st (fun b => b)).toBlock ch).map (·.1)) ∧
      0x14#8 ∉ (matrixFields (st (fun b => b)).mtx.m0).map (·.1) ∧
      (0b000#3 = 0#3 → 0x14#8 ∉ (blockFields (st (fun b => b)).toBlock).map (·.1)) := ⟨by decide +kernel, by decide +kernel, by decide +kernel, fun ch _ => by cases ch <;> decide +kernel, by decide +kernel,
    fun _ => by decide +kernel⟩

/-- Hypotheses of ManualSetCommandsComplete. -/
theorem witness_ManualSetCommandsComplete :
    (st (fun b => { b with script := [ans [], failing] })).script = ans [] :: [failing] ∧
      (st (fun b => { b with script := [failing] })).script = failing :: [] ∧ (ans []).fails = false ∧ failing.fails = true := ⟨rfl, rfl, rfl, rfl⟩

/-- Hypotheses of SetCenterCompletes. -/
theorem witness_SetCenterCompletes :
    manual Channel.reset ∧ ¬ manual { Channel.reset with mtxSel := some .k0 } ∧
      (st (fun b => { b with script := [ans []] })).script = ans [] :: [] ∧ (ans []).fails = false ∧
      (st (fun b => { b with script := [failing] })).script = failing :: [] ∧ failing.fails = true := ⟨⟨rfl, rfl, rfl⟩, fun h => (by cases h.2.2), rfl, rfl, rfl, rfl⟩

/-- Samples within the reset grant are within the retry budget. -/
theorem in_budget {b : Block} {r : CalAnswers} (hl : b.cfg.retryLimit = none) (hg : b.grant = 1000)
    (h : r.vref.length - 2 ≤ 1000 ∧ ∀ v ∈ r.visits, v.samples.length - 2 ≤ 1000) : r.inBudget b := by
  simpa only [CalAnswers.inBudget, mayRetry, hl, hg] using h

/-- A state whose agents answer r, then fail. -/
def tuned (r : Params → CalAnswers) : State := st (fun b => { b with script := (r b.cfg).all ++ [failing] })

/-- Hypotheses of CalibrateDacCompletes. -/
theorem witness_CalibrateDacCompletes :
    calibrates (tuned (hesitant · abrupt)).toBlock abrupt (hesitant (tuned (hesitant · abrupt)).cfg abrupt) [failing] ∧
      calBest (tuned (hesitant · abrupt)).cfg abrupt = some 1 ∧
      (∃ s t, exec (.chCalibrateDac .c1) s = .next t ∧ t.running = none ∧ t.rStatus = 1#8) ∧
      (∃ s t, exec (.chCalibrateDac .c1) s = .next t ∧ t.running.isSome = true) := ⟨⟨by decide +kernel, in_budget rfl rfl (by decide +kernel), rfl⟩, by decide +kernel,
    ⟨st (fun b => { b with script := [failing] }), _, rfl, by decide +kernel, by decide +kernel⟩,
    st (fun b => { b with grant := 0, script := [volt 0#64, volt 0x3FF0000000000000#64] }), _, rfl, by decide +kernel⟩

/-- Hypotheses of CalibrationSearchFindsLargest. -/
theorem witness_CalibrationSearchFindsLargest :
    calibrates (tuned (prompt · abrupt)).toBlock abrupt (prompt (tuned (prompt · abrupt)).cfg abrupt) [failing] ∧
      (let ok (v : Nat) : Prop := F64.le zeroF (F64.sub (calTargetOf (tuned (prompt · abrupt)).cfg abrupt) (abrupt.fb v)) = true;
        (∀ v v' : Nat, v ≤ v' → v' ≤ 0x3FFFF → ok v' → ok v) ∧ ok 0) ∧
      calibrates (tuned (prompt · refused)).toBlock refused (prompt (tuned (prompt · refused)).cfg refused) [failing] ∧
      (let ok (v : Nat) : Prop := F64.le zeroF (F64.sub (calTargetOf (tuned (prompt · refused)).cfg refused) (refused.fb v)) = true;
        (∀ v v' : Nat, v ≤ v' → v' ≤ 0x3FFFF → ok v' → ok v) ∧ ¬ ok 0) := by
  refine ⟨⟨by decide +kernel, in_budget rfl rfl (by decide +kernel), rfl⟩, ⟨fun v v' h _ hok => ?_, by decide +kernel⟩,
    ⟨by decide +kernel, in_budget rfl rfl (by decide +kernel), rfl⟩, fun _ _ _ _ h => h, by decide +kernel⟩
  by_cases hv : v ≤ 1
  · show F64.le zeroF (F64.sub _ (abrupt.fb v)) = true
    rw [show abrupt.fb v = 0#64 from if_pos hv]
    decide +kernel
  · change F64.le zeroF (F64.sub _ (abrupt.fb v')) = true at hok
    rw [show abrupt.fb v' = 0x4014000000000000#64 from if_neg (by omega)] at hok
    exact absurd hok (by decide +kernel)

/-- A block for POLL_ADC: ADC channel 0 answers a STATUS and a DATA, channel 0 is c. -/
def polled (m : CkMode) (fs : List Frame) (c : Channel) (more : List Answer) : State :=
  st (fun b => { b with ckmode := m, opM := 1100#32, ch := ⟨c, b.ch.c1⟩, script := replies fs ++ more })

/-- The two reads of a POLL_ADC of ADC channel 0. -/
def pollFrames (code : List Byte) : List Frame := [.read .crc defaultRegs.status [0x00#8], .read .crc defaultRegs.data code]

/-- A calibrated channel with its PID engaged and one sample taken. -/
def regulated : Channel := { calibrated Channel.reset with pidEngaged := true, adcTime := some 1000#32 }

/-- Hypotheses of PollAdcWithoutOutput. -/
theorem witness_PollAdcWithoutOutput :
    (isReady defaultRegs [0x80#8] = false ∧ converses (answering .crc [.read .crc defaultRegs.status [0x80#8]]).toBlock [.read .crc defaultRegs.status [0x80#8]]
        (replies [.read .crc defaultRegs.status [0x80#8]]) []) ∧
      (isReady defaultRegs [0x02#8] = true ∧ 1 < fieldOf defaultRegs.channel (be [0x02#8]) ∧
        converses (answering .crc [.read .crc defaultRegs.status [0x02#8], .read .crc defaultRegs.data [0x80#8, 0x00#8, 0x00#8]]).toBlock
          [.read .crc defaultRegs.status [0x02#8], .read .crc defaultRegs.data [0x80#8, 0x00#8, 0x00#8]]
          (replies [.read .crc defaultRegs.status [0x02#8], .read .crc defaultRegs.data [0x80#8, 0x00#8, 0x00#8]]) []) ∧
      (∃ s m u : State, ∃ fs gs : List Frame, fs = pollFrames [0xFF#8, 0xFF#8, 0xFF#8] ∧ gs = pollFrames [0x90#8, 0x00#8, 0x00#8] ∧
        fieldOf defaultRegs.channel (be [0x00#8]) = 0 ∧ converses m.toBlock gs (replies gs) [] ∧
        manual ((afterPoll m.toBlock gs .c0 0x900000#24 (replies gs) []).ch.get .c0) ∧ converses s.toBlock fs (replies fs) [] ∧
        ¬ manual ((afterPoll s.toBlock fs .c0 0xFFFFFF#24 (replies fs) []).ch.get .c0) ∧
        celsiusOf s.cfg ((afterPoll s.toBlock fs .c0 0xFFFFFF#24 (replies fs) []).ch.get .c0) = none ∧
        converses u.toBlock gs (replies gs) [] ∧
        ((afterPoll u.toBlock gs .c0 0x900000#24 (replies gs) []).ch.get .c0).pidEngaged = true ∧
        ((afterPoll u.toBlock gs .c0 0x900000#24 (replies gs) []).ch.get .c0).adcInterval = none) := ⟨⟨by decide, ⟨by decide +kernel, by decide +kernel, rfl⟩⟩, ⟨by decide, by decide, ⟨by decide +kernel, by decide +kernel, rfl⟩⟩,
    polled .crc (pollFrames [0xFF#8, 0xFF#8, 0xFF#8]) regulated [], polled .crc (pollFrames [0x90#8, 0x00#8, 0x00#8]) Channel.reset [],
    polled .crc (pollFrames [0x90#8, 0x00#8, 0x00#8]) { regulated with adcTime := none } [], _, _, rfl, rfl, by decide,
    ⟨by decide +kernel, by decide +kernel, rfl⟩, ⟨rfl, rfl, rfl⟩, ⟨by decide +kernel, by decide +kernel, rfl⟩, fun h => (by cases h.1), by decide +kernel, ⟨by decide +kernel, by decide +kernel, rfl⟩, rfl, rfl⟩

/-- Hypotheses of PollAdcDrivesOutput. -/
theorem witness_PollAdcDrivesOutput :
    ∃ x i m : State, ∃ fs : List Frame, fs = pollFrames [0x90#8, 0x00#8, 0x00#8] ∧ (ans []).fails = false ∧ isReady defaultRegs [0x00#8] = true ∧
      fieldOf defaultRegs.channel (be [0x00#8]) = 0 ∧
      failing.fails = true ∧ (∃ f : State, converses f.toBlock fs (replies fs) [failing] ∧
        ((afterPoll f.toBlock fs .c0 0x900000#24 (replies fs) [failing]).ch.get .c0).mtxSel = some .k0) ∧
      (converses m.toBlock fs (replies fs) [ans []] ∧
        ((afterPoll m.toBlock fs .c0 0x900000#24 (replies fs) [ans []]).ch.get .c0).mtxSel = some .k7) ∧
      (converses i.toBlock fs (replies fs) [ans []] ∧
        ((afterPoll i.toBlock fs .c0 0x900000#24 (replies fs) [ans []]).ch.get .c0).mtxSel = none ∧
        ((afterPoll i.toBlock fs .c0 0x900000#24 (replies fs) [ans []]).ch.get .c0).iirEngaged = true) ∧
      (converses x.toBlock fs (replies fs) [ans []] ∧
        ((afterPoll x.toBlock fs .c0 0x900000#24 (replies fs) [ans []]).ch.get .c0).mtxSel = none ∧
        ((afterPoll x.toBlock fs .c0 0x900000#24 (replies fs) [ans []]).ch.get .c0).iirEngaged = false ∧
        ((afterPoll x.toBlock fs .c0 0x900000#24 (replies fs) [ans []]).ch.get .c0).pidEngaged = true ∧
        ((afterPoll x.toBlock fs .c0 0x900000#24 (replies fs) [ans []]).ch.get .c0).adcInterval = some 0x3FB999999999999A#64 ∧
        F64.lt zeroF 0x3FB999999999999A#64 = true) := ⟨polled .crc (pollFrames [0x90#8, 0x00#8, 0x00#8]) regulated [ans []],
    polled .crc (pollFrames [0x90#8, 0x00#8, 0x00#8]) { regulated with iirEngaged := true } [ans []],
    polled .crc (pollFrames [0x90#8, 0x00#8, 0x00#8]) { regulated with mtxSel := some .k7 } [ans []], _, rfl, rfl, by decide, by decide,
    rfl, ⟨polled .crc (pollFrames [0x90#8, 0x00#8, 0x00#8]) { regulated with mtxSel := some .k0 } [failing], ⟨by decide +kernel, by decide +kernel, rfl⟩, rfl⟩, ⟨⟨by decide +kernel, by decide +kernel, rfl⟩, rfl⟩, ⟨⟨by decide +kernel, by decide +kernel, rfl⟩, rfl, rfl⟩, ⟨by decide +kernel, by decide +kernel, rfl⟩, rfl, rfl, rfl, by decide +kernel, by decide +kernel⟩

/-- A state for BLOCK_INIT: a fault-free ADC, then a calibration of each channel. -/
def booting : State :=
  st (fun b => { b with
    script := replies (initFrames b.cfg freshAdc) ++ ((hesitant b.cfg abrupt).all ++ ((prompt b.cfg refused).all ++ [])) })

/-- Hypotheses of BlockInitCompletes. -/
theorem witness_BlockInitCompletes :
    booting.nss = .high ∧ freshAdc.plausible booting.cfg = true ∧ mayRetry booting.toBlock freshAdc.waits.length ∧
      (let r0 := hesitant booting.cfg abrupt
       let r1 := prompt booting.cfg refused
       let as := replies (initFrames booting.cfg freshAdc)
       converses booting.toBlock (initFrames booting.cfg freshAdc) as (r0.all ++ (r1.all ++ [])) ∧
       let b1 := afterInit (afterTec (afterTec booting.toBlock .c0 false) .c1 false) freshAdc as (r0.all ++ (r1.all ++ []))
       let b2 := afterDacInit (afterDacInit b1 .c0) .c1
       calibrates b2 abrupt r0 (r1.all ++ []) ∧ calibrates (afterCalibrate b2 .c0 abrupt r0 (r1.all ++ [])) refused r1 []) ∧
      (∃ s t, exec .blockInit s = .next t ∧ t.running = none ∧ t.phase = .reset) ∧
      (∃ s t, exec .blockInit s = .next t ∧ t.running = none ∧ t.phase = .run ∧ t.rStatus = 1#8) := ⟨rfl, by decide, (by decide : 0 ≤ 1000), ⟨⟨by decide +kernel, by decide +kernel, rfl⟩,
    ⟨by decide +kernel, in_budget rfl rfl (by decide +kernel), rfl⟩, by decide +kernel, in_budget rfl rfl (by decide +kernel), rfl⟩,
    ⟨st (fun b => { b with script := [failing] }), _, rfl, by decide +kernel, by decide +kernel⟩,
    st (fun b => { b with script := replies (initFrames b.cfg freshAdc) ++ [failing] }), _, rfl, by decide +kernel, by decide +kernel,
    by decide +kernel⟩

/-- Hypotheses of RoundingKeepsFiniteValues. -/
theorem witness_RoundingKeepsFiniteValues :
    F64.isFinite 0x7FEFFFFFFFFFFFFF#64 = true ∧ F64.isFinite 0x8000000000000000#64 = true ∧ F64.isFinite 0x0000000000000001#64 = true := by decide +kernel

end Sys2Proof.Tests
end

section
/-! The block right after power-on reset (10_state.md R53): the binary64 constants of the reset table as bit patterns, and what each
per-channel and per-slot access reads. -/

namespace Sys2Proof.Machine

/-! The decimal constants of the table, rounded to binary64 (R13). -/

/-- R34: 1.5. -/
theorem vrefMeasInit_bits : vrefMeasInit = 0x3FF8000000000000#64 := by decide +kernel

/-- R37: 5.0. -/
theorem dacFsNominal_bits : dacFsNominal = 0x4014000000000000#64 := by decide +kernel

/-- R41: 298.15, which binary64 holds rounded. -/
theorem shT0Init_bits : shT0Init = 0x4072A26666666666#64 := by decide +kernel

/-- R41: 10000.0. -/
theorem shR0Init_bits : shR0Init = 0x40C3880000000000#64 := by decide +kernel

/-- R41: 3950.0. -/
theorem shBInit_bits : shBInit = 0x40AEDC0000000000#64 := by decide +kernel

/-! The fields of a channel record that start at such a constant. -/

@[simp] theorem Channel.reset_vrefMeas : Channel.reset.vrefMeas = 0x3FF8000000000000#64 := by
  simp only [Channel.reset, vrefMeasInit_bits]

@[simp] theorem Channel.reset_dacFs : Channel.reset.dacFs = 0x4014000000000000#64 := by
  simp only [Channel.reset, dacFsNominal_bits]

@[simp] theorem Channel.reset_sh :
    Channel.reset.sh = ⟨0x4072A26666666666#64, 0x40C3880000000000#64, 0x40AEDC0000000000#64⟩ := by
  simp only [Channel.reset, shT0Init_bits, shR0Init_bits, shBInit_bits]

/-! Reads of the reset state: every channel, sync pin and matrix slot starts alike. -/

@[simp] theorem State.reset_ch_get (ch : Ch) : State.reset.ch.get ch = Channel.reset := by cases ch <;> rfl

@[simp] theorem State.reset_sync_get (ch : Ch) : State.reset.sync.get ch = none := by cases ch <;> rfl

@[simp] theorem State.reset_mtx_get (k : Slot) : State.reset.mtx.get k = MtxSlot.reset := by cases k <;> rfl

/-- Settles O7: the channels and slots are reduced to the one record they all start from; there only the five nonzero binary64
constants are not the table's entry as written. -/
theorem resetStateValues : Obligations.ResetStateValues := by
  unfold Obligations.ResetStateValues
  refine ⟨rfl, rfl, rfl, rfl, rfl, rfl, fun ch => ?channel, fun k => ?slot, rfl, rfl, rfl, rfl, rfl, rfl, rfl, rfl, rfl⟩
  case channel =>
    rw [State.reset_ch_get, State.reset_sync_get]
    exact ⟨rfl, rfl, rfl, rfl, Channel.reset_vrefMeas, rfl, rfl, Channel.reset_dacFs, rfl, rfl, rfl, rfl,
      rfl, Channel.reset_sh, rfl, rfl, rfl, rfl⟩
  case slot => exact State.reset_mtx_get k

end Sys2Proof.Machine
end

section
/-! Big-endian payloads (20_memory.md R58), bit by bit: the value of a payload, the bytes of a value, and each as the other's
inverse. -/

namespace Sys2Proof.Machine

/-! The value of a payload. -/

@[simp] theorem be_nil : be [] = 0#32 := rfl

/-- The bytes before a payload are shifted past the whole of it. -/
theorem be_foldl_from (p : List Byte) (acc : BitVec 32) :
    p.foldl (fun (a : BitVec 32) b => (a <<< 8) ||| b.setWidth 32) acc = acc <<< (8 * p.length) ||| be p := by
  induction p generalizing acc with
  | nil => simp
  | cons b p ih =>
    have hlen : 8 * (b :: p).length = 8 + 8 * p.length := by rw [List.length_cons]; omega
    simp only [be, List.foldl_cons] at ih ⊢
    rw [ih, ih (0#32 <<< 8 ||| b.setWidth 32), hlen, BitVec.shiftLeft_add]
    simp [BitVec.shiftLeft_or_distrib, BitVec.or_assoc]

theorem be_cons (b : Byte) (p : List Byte) : be (b :: p) = b.setWidth 32 <<< (8 * p.length) ||| be p := by
  have hfrom : be (b :: p) = (0#32 <<< 8 ||| b.setWidth 32) <<< (8 * p.length) ||| be p := be_foldl_from p _
  rwa [BitVec.zero_shiftLeft, BitVec.zero_or] at hfrom

theorem be_concat (p : List Byte) (b : Byte) : be (p ++ [b]) = be p <<< 8 ||| b.setWidth 32 := by
  simp only [be, List.foldl_append, List.foldl_cons, List.foldl_nil]

theorem getLsbD_be_of_le (p : List Byte) {i : Nat} (hi : 8 * p.length ≤ i) : (be p).getLsbD i = false := by
  induction p with
  | nil => simp
  | cons b p ih =>
    rw [List.length_cons] at hi
    have hbyte : b.getLsbD (i - 8 * p.length) = false := BitVec.getLsbD_of_ge _ _ (by omega)
    simp [be_cons, ih (by omega), hbyte]

/-- A byte appended to a value of any width: what `be_concat` does, on concatenated bit vectors. -/
theorem setWidth_append_byte {w : Nat} (v : BitVec w) (b : Byte) :
    (v ++ b).setWidth 32 = v.setWidth 32 <<< 8 ||| b.setWidth 32 := by
  ext i hi
  by_cases hlow : i < 8
  · simp [BitVec.getElem_setWidth, BitVec.getLsbD_append, hlow]
  · have hbyte : b.getLsbD i = false := BitVec.getLsbD_of_ge _ _ (by omega)
    simp [BitVec.getElem_setWidth, BitVec.getLsbD_append, hlow, hbyte]

theorem be_singleton (x : Byte) : be [x] = x.setWidth 32 := by simp [be_cons]

theorem be_pair (x y : Byte) : be [x, y] = (x ++ y).setWidth 32 := by
  rw [setWidth_append_byte, ← be_singleton x]; exact be_concat [x] y

theorem be_triple (x y z : Byte) : be [x, y, z] = (x ++ y ++ z).setWidth 32 := by
  rw [setWidth_append_byte, ← be_pair x y]; exact be_concat [x, y] z

/-! The bytes of a value. -/

/-- The n bytes of a value are bytes of its low 8 * n bits. -/
theorem bytesBe_congr {n : Nat} {v w : BitVec 32} (h : ∀ i < 8 * n, v.getLsbD i = w.getLsbD i) :
    bytesBe n v = bytesBe n w := by
  induction n with
  | zero => rfl
  | succ n ih =>
    have hhead : v.extractLsb' (8 * n) 8 = w.extractLsb' (8 * n) 8 := by
      ext i hi
      simpa using h (8 * n + i) (by omega)
    rw [bytesBe, bytesBe, hhead, ih fun i hi => h i (by omega)]

/-! Each is the other's inverse. -/

/-- Writing n bytes and reading them back keeps the low 8 * n bits and clears the rest. -/
theorem getLsbD_be_bytesBe (n : Nat) (v : BitVec 32) (i : Nat) :
    (be (bytesBe n v)).getLsbD i = (decide (i < 8 * n) && v.getLsbD i) := by
  induction n with
  | zero => simp [bytesBe]
  | succ n ih =>
    rw [bytesBe, be_cons, bytesBe_length, BitVec.getLsbD_or, ih]
    by_cases hlow : i < 8 * n
    · have hnext : i < 8 * (n + 1) := by omega
      simp [hlow, hnext]
    · have hpos : 8 * n + (i - 8 * n) = i := by omega
      by_cases hbyte : i < 8 * (n + 1)
      · have hoff : i - 8 * n < 8 := by omega
        by_cases hword : i < 32
        · simp [hlow, hbyte, hoff, hpos, hword]
        · simp [hword, BitVec.getLsbD_of_ge v i (by omega)]
      · have hoff : ¬ i - 8 * n < 8 := by omega
        simp [hlow, hbyte, hoff]

theorem be_bytesBe {n : Nat} {v : BitVec 32} (hv : v.toNat < 2 ^ (8 * n)) : be (bytesBe n v) = v := by
  apply BitVec.eq_of_getLsbD_eq
  intro i _
  rw [getLsbD_be_bytesBe]
  by_cases hlow : i < 8 * n
  · simp [hlow]
  · have hzero : v.getLsbD i = false :=
      Nat.testBit_lt_two_pow (hv.trans_le (Nat.pow_le_pow_right (by decide) (by omega)))
    simp [hlow, hzero]

theorem bytesBe_be (p : List Byte) (hp : p.length ≤ 4) : bytesBe p.length (be p) = p := by
  induction p with
  | nil => rfl
  | cons b p ih =>
    rw [List.length_cons] at hp
    have hhead : (be (b :: p)).extractLsb' (8 * p.length) 8 = b := by
      ext i hi
      have hword : 8 * p.length + i < 32 := by omega
      have hrest : (be p)[8 * p.length + i] = false := getLsbD_be_of_le p (Nat.le_add_right _ i)
      simp [be_cons, hword, hrest, BitVec.getLsbD_eq_getElem hi]
    have htail : bytesBe p.length (be (b :: p)) = bytesBe p.length (be p) :=
      bytesBe_congr fun i hi => by simp [be_cons, hi]
    rw [List.length_cons, bytesBe, hhead, htail, ih (by omega)]

/-- Settles O17: bit by bit, by induction on the payload and on the number of bytes. The first inverse needs no bound on the number
of bytes; the second does, since the first of five bytes is shifted out of the word. -/
theorem payloadsAreBigEndian : Obligations.PayloadsAreBigEndian := by
  unfold Obligations.PayloadsAreBigEndian
  exact ⟨fun x y z => ⟨be_singleton x, be_pair x y, be_triple x y z⟩, fun _ _ _ hv => be_bytesBe hv, bytesBe_be⟩

end Sys2Proof.Machine
end

section
/-! The CRC engine (41_checksum.md R119, R121): feeding a byte bit by bit is adding the whole byte to the accumulator and shifting it
out eight times. -/

namespace Sys2Proof.Machine

/-- One round of the byte-wise form: the accumulator shifted left by one bit, reduced by the polynomial 0x07 when a 1 leaves. -/
def crcShift (a : Byte) : Byte := if a.getLsbD 7 = true then (a <<< 1) ^^^ 0x07#8 else a <<< 1

@[simp] theorem crcShift_zero : crcShift 0#8 = 0#8 := rfl

/-- The top bit of an added byte enters the round as the engine's input bit; its other bits are only shifted. -/
theorem crcShift_xor (acc c : Byte) : crcShift (acc ^^^ c) = crcBit (c.getLsbD 7) acc ^^^ c <<< 1 := by
  simp only [crcShift, crcBit, BitVec.getLsbD_xor, BitVec.shiftLeft_xor_distrib]
  cases acc.getLsbD 7 <;> cases c.getLsbD 7 <;> simp [BitVec.xor_assoc, BitVec.xor_comm (c <<< 1)]

/-- The low n bits of a byte, fed one at a time, are n rounds of the byte-wise form on the byte shifted up to the top. -/
theorem crcBits_eq_iterate (b : Byte) (n : Nat) (hn : n ≤ 8) (acc : Byte) :
    crcBits b n acc = crcShift^[n] (acc ^^^ b <<< (8 - n)) := by
  induction n generalizing acc with
  | zero => simp [crcBits]
  | succ n ih =>
    have hbit : (b <<< (8 - (n + 1))).getLsbD 7 = b.getLsbD n := by
      have hpos : 7 - (8 - (n + 1)) = n := by omega
      rw [BitVec.getLsbD_shiftLeft, hpos]
      simp
    have hshift : b <<< (8 - (n + 1)) <<< 1 = b <<< (8 - n) := by
      rw [← BitVec.shiftLeft_add]; congr 1; omega
    rw [crcBits, ih (by omega), Function.iterate_succ_apply, crcShift_xor, hbit, hshift]

theorem crcByte_eq_iterate (acc b : Byte) : crcByte acc b = crcShift^[8] (acc ^^^ b) := by
  rw [crcByte, crcBits_eq_iterate b 8 le_rfl acc, Nat.sub_self, BitVec.shiftLeft_zero]

/-- The accumulator fed to itself cancels: the residue of a CRC is 0. -/
theorem crcByte_self (x : Byte) : crcByte x x = 0#8 := by
  rw [crcByte_eq_iterate, BitVec.xor_self, Function.iterate_fixed crcShift_zero]

/-- Feeding the engine, in mode Crc, the value it holds leaves 0. -/
theorem ckValue_feed_own (c : Checksum) (hc : c.mode = .crc) (x : Byte) (hx : ckValue c = some x) :
    ckValue (ckFeedBytes c [x]) = some 0x00#8 := by
  obtain ⟨mode, acc⟩ := c
  subst hc
  obtain rfl : acc = x := Option.some.inj hx
  exact congrArg some (crcByte_self acc)

@[simp] theorem ckFeedBytes_crc_mode (bs : List Byte) : (ckFeedBytes (ckNew .crc) bs).mode = .crc := by
  rw [ckNew, ckFeedBytes_crc]

/-- Settles O16: the eight rounds of the byte-wise form are the iterate of `crcShift` that a byte step was shown to be; the residue
follows, since the last byte fed is the accumulator itself. -/
theorem crcMatchesByteWiseForm : Obligations.CrcMatchesByteWiseForm := by
  unfold Obligations.CrcMatchesByteWiseForm
  refine ⟨fun acc b => ⟨rfl, ?byteWise⟩, by decide +kernel, fun bytes x hx => ?residue⟩
  case byteWise =>
    calc crcByte acc b
      _ = crcShift^[(List.range 8).length] (acc ^^^ b) := crcByte_eq_iterate acc b
      _ = (List.range 8).foldl (fun a _ => crcShift a) (acc ^^^ b) := (List.foldl_const ..).symm
  case residue =>
    rw [← ckFeedBytes_append]
    exact ckValue_feed_own _ (ckFeedBytes_crc_mode bytes) x hx

end Sys2Proof.Machine
end

section
/-! The register modifications of the block (42_adc_protocol.md R134, R99, R127): each is a list of field writes, and a field write
touches the bits of its field alone. -/

namespace Sys2Proof.Machine

open Safety

/-- R127: a single field written holds the low bits of the value written to it. -/
theorem setFields_singleton_inside (f : BitField) (x n : Nat) (v : BitVec 32) (hlo : f.lo ≤ n) (hhi : n ≤ f.hi) (hn : n < 32) :
    (setFields [(f, x)] v).getLsbD n = x.testBit (n - f.lo) := by
  rw [setFields, List.foldl_cons, List.foldl_nil, setField_getLsbD, if_pos ⟨hn, hlo, hhi⟩]

/-- Settles O18: every modification is `setFields` of the list of fields it names, so `setFields_outside` speaks of each. -/
theorem updatesKeepOtherBits : Obligations.UpdatesKeepOtherBits := by
  unfold Obligations.UpdatesKeepOtherBits
  intro T v i m code odr inPos inNeg mask new f x n t
  refine ⟨?mode, ?crcEn, ?setupCon, ?filtCon, ?chReg, ?filterOn, ?filterOff, ?inside, ?masked⟩
  case mode => exact setFields_outside [(t.mode, x)] n v
  case crcEn => exact setFields_outside [(t.crcEn, t.crcCode m)] n v
  case setupCon => exact setFields_outside [(t.biUnipolar, _), (t.refBufPos, _), (t.refBufNeg, _), (t.ainBufPos, _),
    (t.ainBufNeg, _), (t.refSel, _)] n v
  case filtCon => exact setFields_outside [(t.enhFiltEn, _), (t.enhFilt, _), (t.order, _), (t.odr, odr.toNat)] n v
  case chReg => exact setFields_outside [(t.chEn, _), (t.setupSel, _), (t.ainPos, _), (t.ainNeg, _)] n v
  case filterOn => exact setFields_outside [(t.enhFiltEn, 1), (t.enhFilt, code.toNat)] n v
  case filterOff => exact setFields_outside [(t.enhFiltEn, 0)] n v
  case inside => exact setFields_singleton_inside f x n v
  case masked => exact mergeBits_getLsbD mask new v n

end Sys2Proof.Machine
end

section
/-! A conversation answered as asked, piece by piece (42_adc_protocol.md R133 to R147): which frames each operation of the ADC protocol
exchanges, what it answers, and what it does to the block besides. -/

namespace Sys2Proof.Machine

open Safety

/-! The modifications, as the claims write them. -/

theorem setMode_eq (t : RegTable) (code : Nat) : t.setMode code = withFields [(t.mode, code)] := by
  funext v
  rw [RegTable.setMode, setFields_eq]

theorem setSetupCon_eq (T : AdcTables) : T.setSetupCon =
    withFields [(T.regs.biUnipolar, T.setup.biUnipolar), (T.regs.refBufPos, T.setup.refBufPos),
      (T.regs.refBufNeg, T.setup.refBufNeg), (T.regs.ainBufPos, T.setup.ainBufPos), (T.regs.ainBufNeg, T.setup.ainBufNeg),
      (T.regs.refSel, T.setup.refSel)] := by
  funext v
  rw [AdcTables.setSetupCon, setFields_eq]

theorem setFiltCon_eq (T : AdcTables) (odr : BitVec 5) : T.setFiltCon odr =
    withFields [(T.regs.enhFiltEn, T.setup.enhFiltEn), (T.regs.enhFilt, T.setup.enhFilt), (T.regs.order, T.setup.order),
      (T.regs.odr, odr.toNat)] := by
  funext v
  rw [AdcTables.setFiltCon, setFields_eq]

theorem chIndex_eq (i : Ch) : chIndex i = (chNumber i).toNat := by cases i <;> rfl

theorem setChReg_eq (T : AdcTables) (i : Ch) (inPos inNeg : BitVec 5) : T.setChReg i inPos inNeg =
    withFields [(T.regs.chEn, T.setup.chEn), (T.regs.setupSel, (chNumber i).toNat), (T.regs.ainPos, inPos.toNat),
      (T.regs.ainNeg, inNeg.toNat)] := by
  funext v
  rw [AdcTables.setChReg, setFields_eq, chIndex_eq]

/-- R29: the model's capture is the one the claims name. -/
theorem captureCal_eq (k : AdcCal) (c : Channel) : c.captureCal k = captured c k := by
  obtain ⟨cal⟩ := c
  cases cal <;> rfl

/-! Running against a conversation. -/

/-- A block at a point of its conversation: with these answers to come, this many primitives behind it, and this history. -/
def Block.onPort (b : Block) (script : List Answer) (ports : Nat) (hist : List Event) : Block :=
  { b with script := script, ports := ports, hist := hist }

/-- Run on b while the ADC answers the frames fs, x answers v and changes b to c; the frames are all that the port sees. -/
def Cmd.Exchanges {α : Type} (b : Block) (fs : List Safety.Frame) (v : α) (c : Block) (x : Cmd α) : Prop :=
  ∀ as rest n h, converses (b.onPort (as ++ rest) n h) fs as rest →
    x (b.onPort (as ++ rest) n h) = .ok v (c.onPort rest (n + as.length) (framesEvents fs as ++ h))

/-- What an exchange says of a block about to be asked. -/
theorem Cmd.Exchanges.run {α : Type} {b c : Block} {fs : List Safety.Frame} {v : α} {x : Cmd α} {as rest : List Answer}
    (hx : x.Exchanges b fs v c) (h : converses b fs as rest) :
    x b = .ok v (c.onPort rest (b.ports + as.length) (framesEvents fs as ++ b.hist)) := by
  have hb : b.onPort (as ++ rest) b.ports b.hist = b := by rw [← h.2.2]; rfl
  have hrun := hx as rest b.ports b.hist
  rw [hb] at hrun
  exact hrun h

/-- A change of the block that the port neither sees nor touches. -/
structure Quiet (e : Block → Block) : Prop where
  cfg : ∀ b, (e b).cfg = b.cfg
  onPort : ∀ b s n h, e (b.onPort s n h) = (e b).onPort s n h

theorem quiet_setPhase (p : Phase) : Quiet (·.setPhase p) := ⟨fun _ => rfl, fun _ _ _ _ => rfl⟩

theorem quiet_setAdcId (v : BitVec 16) : Quiet (·.setAdcId v) := ⟨fun _ => rfl, fun _ _ _ _ => rfl⟩

/-- R219: a retry that the budget has left. -/
theorem checkBudget_ok {loop : LoopId} {count : Nat} {b : Block}
    (hl : ∀ limit, b.cfg.retryLimit = some limit → count + 1 ≤ limit) : checkBudget loop count b = .ok () b := by
  rw [checkBudget, Cmd.run_bind_ok (Cmd.run_look _ b)]
  cases hb : b.cfg.retryLimit with
  | none => rfl
  | some limit => exact congrFun (if_neg (Nat.not_lt.mpr (hl limit hb))) b

namespace Cmd.Exchanges

variable {α β : Type} {b c d : Block} {fs gs : List Safety.Frame} {v : α} {w : β}

/-- Two operations one after the other exchange the frames of the first, then those of the second. -/
theorem bind {x : Cmd α} {f : α → Cmd β} (hx : x.Exchanges b fs v c) (hc : c.cfg = b.cfg)
    (hf : (f v).Exchanges c gs w d) : (x >>= f).Exchanges b (fs ++ gs) w d := by
  intro as rest n h hconv
  obtain ⟨xs, ys, rfl, hfs, hgs, hjoin⟩ := converses_append hconv
  have hevents : framesEvents gs ys ++ (framesEvents fs xs ++ h) = framesEvents (fs ++ gs) (xs ++ ys) ++ h :=
    congrArg Block.hist (hjoin rest)
  rw [List.append_assoc] at hfs ⊢
  rw [Cmd.run_bind_ok (hx xs (ys ++ rest) n h hfs), hf ys rest _ _ ⟨hc ▸ hgs.1, hgs.2.1, rfl⟩, hevents, List.length_append,
    Nat.add_assoc]

/-- A change made first. -/
theorem update_bind {e : Block → Block} {f : Unit → Cmd β} (he : Quiet e) (hf : (f ()).Exchanges (e b) fs w d) :
    (update e >>= f).Exchanges b fs w d := by
  intro as rest n h hconv
  rw [Cmd.run_bind_ok (Cmd.run_update e _), he.onPort, hf as rest n h ⟨he.cfg b ▸ hconv.1, hconv.2.1, rfl⟩]

/-- A value first read from the block that is none of the port's. -/
theorem look_bind {g : Block → α} {f : α → Cmd β} (hg : ∀ s n h, g (b.onPort s n h) = g b)
    (hf : (f (g b)).Exchanges b fs w d) : (look g >>= f).Exchanges b fs w d := by
  intro as rest n h hconv
  rw [Cmd.run_bind_ok (Cmd.run_look g _), hg, hf as rest n h hconv]

/-- A change, and an answer computed, last. -/
theorem bind_last {x : Cmd α} {f : α → Cmd β} (hx : x.Exchanges b fs v c)
    (hf : ∀ s n h, f v (c.onPort s n h) = .ok w (d.onPort s n h)) : (x >>= f).Exchanges b fs w d := by
  intro as rest n h hconv
  rw [Cmd.run_bind_ok (hx as rest n h hconv), hf]

/-- R219: a turn to be retried, within the budget, and the rest of the loop. -/
theorem again {loop : LoopId} {body : β → Cmd (Turn α β)} {fuel count : Nat} {u u' : β}
    (ht : (body u).Exchanges b fs (.again u') b) (hl : ∀ limit, b.cfg.retryLimit = some limit → count + 1 ≤ limit)
    (hr : (retryFrom loop body fuel (count + 1) u').Exchanges b gs v d) :
    (retryFrom loop body (fuel + 1) count u).Exchanges b (fs ++ gs) v d := by
  rw [retryFrom]
  refine bind ht rfl (fun as rest n h hconv => ?_)
  exact (Cmd.run_bind_ok (checkBudget_ok (b := b.onPort (as ++ rest) n h) hl) _).trans (hr as rest n h hconv)

/-- R219: a turn that ends the loop. -/
theorem done {loop : LoopId} {body : β → Cmd (Turn α β)} {fuel count : Nat} {u : β}
    (ht : (body u).Exchanges b fs (.done v) c) : (retryFrom loop body fuel count u).Exchanges b fs v c :=
  fun as rest n h hconv => retryFrom_done (ht as rest n h hconv)

end Cmd.Exchanges

/-! The operations. -/

section Operations

variable {b : Block} {m : CkMode}

theorem readValue_exchanges (a : RegAddr) (p : List Byte) (hn : b.nss = .high) (hm : b.ckmode = m) :
    (readValue a).Exchanges b [.read m a p] (be p) b := fun _ _ _ _ h => readValue_good hn hm h

/-- R87. -/
theorem readStatus_exchanges (st : List Byte) (hn : b.nss = .high) (hm : b.ckmode = m) :
    readStatus.Exchanges b [.read m b.regs.status st] (be st) b := fun _ _ _ _ h => readStatus_good hn hm h

theorem updateReg_exchanges (a : RegAddr) (p : List Byte) (f : BitVec 32 → BitVec 32) (hn : b.nss = .high) (hm : b.ckmode = m) :
    (updateReg a f).Exchanges b (updateFrames m a p f) (be (bytesBe p.length (f (be p)))) b :=
  fun _ _ _ _ h => updateReg_good hn hm h

/-- R135. -/
theorem resetAdc_exchanges (hn : b.nss = .high) : resetAdc.Exchanges b [.reset] () (b.setCkmode .off) :=
  fun _ _ _ _ h => resetAdc_sent hn h

/-- R136: an ID of the family, read at once. -/
theorem identify_exchanges (p : List Byte) (hn : b.nss = .high) (hm : b.ckmode = m)
    (hp : isFamily b.cfg ((be p).setWidth 16) = true) :
    identify.Exchanges b [.read m b.regs.id p] ((be p).setWidth 16) (b.setAdcId ((be p).setWidth 16)) := by
  refine Cmd.Exchanges.look_bind (fun _ _ _ => rfl) (Cmd.Exchanges.done ?_)
  refine Cmd.Exchanges.look_bind (fun _ _ _ => rfl) (Cmd.Exchanges.bind_last (readValue_exchanges _ p hn hm) (fun s n h => ?_))
  have hok : (b.onPort s n h).cfg.ofFamily ((be p).setWidth 16) = true := (ofFamily_eq _ _).trans hp
  simp only [Cmd.run_bind, Cmd.run_look, hok, if_true, Cmd.run_update, Cmd.run_pure, (quiet_setAdcId _).onPort]

/-- R137. -/
theorem setChecksumMode_exchanges (m' : CkMode) (p : List Byte) (hn : b.nss = .high) (hm : b.ckmode = m) :
    (setChecksumMode m').Exchanges b (updateFrames m b.regs.ifMode p (withCrcEn b.regs m')) () (b.setCkmode m') := by
  refine Cmd.Exchanges.look_bind (fun _ _ _ => rfl) ?_
  rw [setCrcEn_eq]
  exact Cmd.Exchanges.bind_last (updateReg_exchanges _ p _ hn hm) (fun _ _ _ => rfl)

/-- R138, R97. -/
theorem setupChannel_exchanges (i : Ch) (inPos inNeg : BitVec 5) (p1 p2 p3 : List Byte) (hn : b.nss = .high)
    (hm : b.ckmode = m) :
    (setupChannel i inPos inNeg).Exchanges b (setupFrames b.cfg.tables m i b.cfg.setupOdr inPos inNeg p1 p2 p3) () b := by
  refine Cmd.Exchanges.look_bind (fun _ _ _ => rfl) (Cmd.Exchanges.look_bind (fun _ _ _ => rfl) ?_)
  rw [setSetupCon_eq, setFiltCon_eq, setChReg_eq]
  simp only [regIndexed_eq, setupFrames, List.append_assoc]
  refine Cmd.Exchanges.bind (updateReg_exchanges _ p1 _ hn hm) rfl ?_
  refine Cmd.Exchanges.bind (updateReg_exchanges _ p2 _ hn hm) rfl ?_
  exact Cmd.Exchanges.bind_last (updateReg_exchanges _ p3 _ hn hm) (fun _ _ _ => rfl)

/-- R139: one STATUS read of the ready wait. -/
theorem pollTurn_exchanges (st : List Byte) (hn : b.nss = .high) (hm : b.ckmode = m) :
    (pollTurn ()).Exchanges b [.read m b.regs.status st] (if isReady b.regs st then .done () else .again ()) b := by
  refine Cmd.Exchanges.bind_last (readStatus_exchanges st hn hm) (fun s n h => ?_)
  rw [Cmd.run_bind_ok (Cmd.run_lookReg _ _), statusReady_eq]
  show (if isReady b.regs st = true then pure (.done ()) else pure (.again ()) : Cmd (Turn Unit Unit)) _ = _
  cases isReady b.regs st <;> rfl

/-- R139, R219: the ready wait from its `count`-th retry on, with budget for the STATUS reads that are not ready. -/
theorem pollFrom_exchanges {st : List Byte} (hn : b.nss = .high) (hm : b.ckmode = m) (hst : isReady b.regs st = true) :
    ∀ (waits : List (List Byte)) {fuel count : Nat}, (∀ w ∈ waits, isReady b.regs w = false) → waits.length ≤ fuel →
      (∀ limit, b.cfg.retryLimit = some limit → count + waits.length ≤ limit) →
      (retryFrom .poll pollTurn fuel count ()).Exchanges b
        (waits.map (Frame.read m b.regs.status) ++ [.read m b.regs.status st]) () b
  | [], fuel, count, _, _, _ => by
    have hturn := pollTurn_exchanges st hn hm
    rw [hst, if_pos rfl] at hturn
    exact Cmd.Exchanges.done hturn
  | w :: waits, fuel, count, hwaits, hfuel, hlimit => by
    rw [List.length_cons] at hfuel hlimit
    obtain ⟨fuel, rfl⟩ : ∃ k, fuel = k + 1 := ⟨fuel - 1, by omega⟩
    have hturn := pollTurn_exchanges w hn hm
    rw [hwaits w (List.mem_cons_self ..), if_neg Bool.false_ne_true] at hturn
    have hrest := pollFrom_exchanges hn hm hst waits (fuel := fuel) (count := count + 1)
      (fun w' h' => hwaits w' (List.mem_cons_of_mem _ h')) (by omega) (fun limit hl => by have := hlimit limit hl; omega)
    exact Cmd.Exchanges.again (fs := [_]) hturn (fun limit hl => by have := hlimit limit hl; omega) hrest

/-- R139: the ready wait. -/
theorem poll_exchanges (waits : List (List Byte)) (st : List Byte) (hn : b.nss = .high) (hm : b.ckmode = m)
    (hw : ∀ w ∈ waits, isReady b.regs w = false) (hst : isReady b.regs st = true) (hb : mayRetry b waits.length) :
    (retryLoop .poll pollTurn ()).Exchanges b (waits.map (Frame.read m b.regs.status) ++ [.read m b.regs.status st]) () b := by
  refine Cmd.Exchanges.look_bind (fun _ _ _ => rfl) (pollFrom_exchanges hn hm hst waits hw (mayRetry_fuel hb) (fun limit hl => ?_))
  rw [mayRetry, hl] at hb
  rwa [Nat.zero_add]

/-- R139. -/
theorem calibrateOffset_exchanges (p q : List Byte) (waits : List (List Byte)) (st : List Byte) (hn : b.nss = .high)
    (hm : b.ckmode = m) (hw : ∀ w ∈ waits, isReady b.regs w = false) (hst : isReady b.regs st = true)
    (hb : mayRetry b waits.length) :
    calibrateOffset.Exchanges b (calibrateFrames b.regs m p q waits st) () b := by
  refine Cmd.Exchanges.look_bind (fun _ _ _ => rfl) ?_
  rw [setMode_eq, setMode_eq, calibrateFrames, List.append_assoc]
  refine Cmd.Exchanges.bind (updateReg_exchanges _ p _ hn hm) rfl ?_
  refine Cmd.Exchanges.bind (poll_exchanges waits st hn hm hw hst hb) rfl ?_
  exact Cmd.Exchanges.bind_last (updateReg_exchanges _ q _ hn hm) (fun _ _ _ => rfl)

/-- R140: the three registers. -/
theorem readCal_exchanges (i : Ch) (o g su : List Byte) (hn : b.nss = .high) (hm : b.ckmode = m) :
    (readCal i).Exchanges b (captureFrames b.regs m i o g su) (calRecord b.regs o g su) b := by
  refine Cmd.Exchanges.look_bind (fun _ _ _ => rfl) ?_
  simp only [regIndexed_eq, isBipolar_eq]
  refine Cmd.Exchanges.bind (gs := [_, _]) (readValue_exchanges _ o hn hm) rfl ?_
  refine Cmd.Exchanges.bind (fs := [_]) (gs := [_]) (readValue_exchanges _ g hn hm) rfl ?_
  exact Cmd.Exchanges.bind_last (readValue_exchanges _ su hn hm) (fun _ _ _ => rfl)

/-- R140, R29. -/
theorem getCalibration_exchanges (i : Ch) (o g su : List Byte) (hn : b.nss = .high) (hm : b.ckmode = m) :
    (getCalibration i).Exchanges b (captureFrames b.regs m i o g su) (calRecord b.regs o g su)
      (b.updCh i (fun c => captured c (calRecord b.regs o g su))) := by
  refine Cmd.Exchanges.bind_last (readCal_exchanges i o g su hn hm) (fun _ _ _ => ?_)
  rw [show (fun c => captured c (calRecord b.regs o g su)) = Channel.captureCal (calRecord b.regs o g su) from
    funext fun c => (captureCal_eq _ c).symm]
  rfl

end Operations

/-- R147: the body of ADC_INIT against a fault-free ADC. -/
theorem adcInit_exchanges {b : Block} {r : AdcContents} (hn : b.nss = .high) (hp : r.plausible b.cfg = true)
    (hb : mayRetry b r.waits.length) :
    adcInit.Exchanges b (initFrames b.cfg r) ((be r.id).setWidth 16)
      { b with
        phase := .run
        ckmode := b.cfg.initCkMode
        adcId := some ((be r.id).setWidth 16)
        ch := ⟨captured b.ch.c0 (calRecord b.regs r.cal0.1 r.cal0.2.1 r.cal0.2.2),
          captured b.ch.c1 (calRecord b.regs r.cal1.1 r.cal1.2.1 r.cal1.2.2)⟩ } := by
  simp only [AdcContents.plausible, Bool.and_eq_true, List.all_eq_true, Bool.not_eq_true'] at hp
  obtain ⟨⟨hfamily, hwaits⟩, hready⟩ := hp
  simp only [initFrames, List.append_assoc]
  refine Cmd.Exchanges.update_bind (quiet_setPhase .reset) ?_
  refine Cmd.Exchanges.bind (fs := [.reset]) (gs := _ :: _) (resetAdc_exchanges hn) rfl ?_
  refine Cmd.Exchanges.update_bind (quiet_setPhase .identify) ?_
  refine Cmd.Exchanges.bind (fs := [_]) (identify_exchanges r.id hn rfl hfamily) rfl ?_
  refine Cmd.Exchanges.update_bind (quiet_setPhase .cksum) (Cmd.Exchanges.look_bind (fun _ _ _ => rfl) ?_)
  refine Cmd.Exchanges.bind (setChecksumMode_exchanges _ r.ifmode hn rfl) rfl ?_
  refine Cmd.Exchanges.update_bind (quiet_setPhase .setup) (Cmd.Exchanges.look_bind (fun _ _ _ => rfl) ?_)
  refine Cmd.Exchanges.bind (setupChannel_exchanges .c0 _ _ _ _ _ hn rfl) rfl ?_
  refine Cmd.Exchanges.bind (setupChannel_exchanges .c1 _ _ _ _ _ hn rfl) rfl ?_
  refine Cmd.Exchanges.update_bind (quiet_setPhase .calibrate) ?_
  refine Cmd.Exchanges.bind (calibrateOffset_exchanges r.mode1 r.mode2 r.waits r.ready hn rfl hwaits hready hb) rfl
    ?_
  refine Cmd.Exchanges.update_bind (quiet_setPhase .capture) ?_
  refine Cmd.Exchanges.bind (getCalibration_exchanges .c0 _ _ _ hn rfl) rfl ?_
  refine Cmd.Exchanges.bind_last (getCalibration_exchanges .c1 _ _ _ hn rfl) (fun _ _ _ => ?_)
  simp only [Block.setPhase, Block.setCkmode, Block.setAdcId, Block.updCh, PerCh.set, PerCh.get]
  rfl

end Sys2Proof.Machine
end

section
/-! What the operations of ADC_INIT do whatever the agents answer (60_exceptions.md R219, R222): one that ends well has had its effect,
one that breaks off has had none, and breaks off only with an error of the loops it enters. -/

namespace Sys2Proof.Machine

open Safety

/-! The parts that have no effect of their own. -/

/-- All that ADC_INIT writes but the port, the history and the retry counters is as it was. -/
structure Kept (b b' : Block) : Prop where
  cfg : b'.cfg = b.cfg
  phase : b'.phase = b.phase
  ckmode : b'.ckmode = b.ckmode
  adcId : b'.adcId = b.adcId
  ch : b'.ch = b.ch

namespace Kept

variable {b c d : Block}

theorem refl (b : Block) : Kept b b := ⟨rfl, rfl, rfl, rfl, rfl⟩

theorem trans (h : Kept b c) (k : Kept c d) : Kept b d :=
  ⟨k.cfg.trans h.cfg, k.phase.trans h.phase, k.ckmode.trans h.ckmode, k.adcId.trans h.adcId, k.ch.trans h.ch⟩

theorem setPhase (h : Kept b c) (p : Phase) : Kept (b.setPhase p) (c.setPhase p) := ⟨h.cfg, rfl, h.ckmode, h.adcId, h.ch⟩

theorem setCkmode (h : Kept b c) (m : CkMode) : Kept (b.setCkmode m) (c.setCkmode m) := ⟨h.cfg, h.phase, rfl, h.adcId, h.ch⟩

theorem setAdcId (h : Kept b c) (v : BitVec 16) : Kept (b.setAdcId v) (c.setAdcId v) := ⟨h.cfg, h.phase, h.ckmode, rfl, h.ch⟩

theorem updCh (h : Kept b c) (i : Ch) (f : Channel → Channel) : Kept (b.updCh i f) (c.updCh i f) :=
  ⟨h.cfg, h.phase, h.ckmode, h.adcId, by rw [Block.updCh_ch, Block.updCh_ch, h.ch]⟩

end Kept

/-- A stop whose error, if it is one, has its code and info (R215) in the list; a pause is always possible (log 5). -/
def Stop.among (es : List (BitVec 8 × BitVec 32)) : Stop → Prop
  | .raised e => (e.code, e.info) ∈ es
  | .paused => True

/-- However x ends it has kept what ADC_INIT writes, and it stops only as listed. -/
abbrev Cmd.Keeps {α : Type} (es : List (BitVec 8 × BitVec 32)) (x : Cmd α) : Prop := x.Within Kept (fun _ => Stop.among es)

theorem frame_kept (es : List (BitVec 8 × BitVec 32)) : Cmd.Frame Kept (fun _ => Stop.among es) :=
  ⟨Kept.refl, Kept.trans, fun _ h => h⟩

namespace Cmd.Keeps

variable {α β : Type} {es : List (BitVec 8 × BitVec 32)}

theorem pure (a : α) : (Pure.pure a : Cmd α).Keeps es := Cmd.Within.pure (frame_kept es) a

theorem look (f : Block → α) : (Machine.look f).Keeps es := Cmd.Within.look (frame_kept es) f

theorem bind {x : Cmd α} {f : α → Cmd β} (hx : x.Keeps es) (hf : ∀ a, (f a).Keeps es) : (x >>= f).Keeps es :=
  Cmd.Within.bind (frame_kept es) hx hf

/-- R219: what a retry loop adds is that its retries may be exhausted. -/
theorem retryLoop {loop : LoopId} {body : β → Cmd (Turn α β)} {v : β} (hl : (5#8, loop.info) ∈ es)
    (hb : ∀ v, (body v).Keeps es) : (Machine.retryLoop loop body v).Keeps es :=
  Cmd.Within.retryLoop (frame_kept es) hb (fun _ _ _ => hl) (fun _ _ => trivial) (fun _ _ k => by rw [k.cfg])

section Frames

variable (ht : (1#8, 0#32) ∈ es)
include ht

theorem spiXfer (out : List Byte) : (spiXfer .adc out).Keeps es := by
  intro b
  rw [run_spiXfer]
  cases b.nextAnswer.fails
  · exact ⟨rfl, rfl, rfl, rfl, rfl⟩
  · exact ⟨⟨rfl, rfl, rfl, rfl, rfl⟩, ht⟩

theorem adcParts : ∀ parts : List (List Byte), (adcParts parts).Keeps es
  | [] => Keeps.pure _
  | out :: parts => bind (spiXfer ht out) (fun _ => bind (adcParts parts) (fun _ => Keeps.pure _))

/-- R64: the chip-select is all that a frame's end, good or bad, adds to its transfers. -/
theorem adcFrame (parts : List (List Byte)) : (adcFrame parts).Keeps es := by
  have hpin : ∀ l, (pinSet .nssAdc l).Keeps es := fun _ _ => ⟨rfl, rfl, rfl, rfl, rfl⟩
  refine bind (hpin .low) (fun _ => bind ?released (fun _ => bind (hpin .high) (fun _ => Keeps.pure _)))
  case released =>
    intro b
    have hparts := adcParts ht parts b
    rw [Cmd.run_onStop]
    cases hrun : Machine.adcParts parts b with
    | ok inns b' => rw [hrun] at hparts; exact hparts
    | error e b' =>
      rw [hrun] at hparts
      exact ⟨hparts.1.trans ⟨rfl, rfl, rfl, rfl, rfl⟩, hparts.2⟩

end Frames

/-! Register operations: a read enters loop READ (1), a write also WRITE (2), the ready wait POLL (4). -/

section Registers

variable (ht : (1#8, 0#32) ∈ es) (hr : (5#8, 1#32) ∈ es)
include ht hr

theorem readReg (a : RegAddr) : (readReg a).Keeps es := by
  refine Keeps.retryLoop hr (fun _ => ?_)
  refine bind (bind (look _) (fun _ => bind (look _) (fun _ => bind (adcFrame ht _) (fun _ => Keeps.pure _)))) (fun r => ?_)
  obtain ⟨p, ok⟩ := r
  cases ok
  · exact bind (Cmd.Within.update (fun _ => ⟨rfl, rfl, rfl, rfl, rfl⟩)) (fun _ => Keeps.pure _)
  · exact Keeps.pure _

theorem readValue (a : RegAddr) : (readValue a).Keeps es := bind (readReg ht hr a) (fun _ => Keeps.pure _)

/-- R140: the three registers. -/
theorem readCal (i : Ch) : (readCal i).Keeps es :=
  bind (look _) (fun _ => bind (readValue ht hr _) (fun _ => bind (readValue ht hr _) (fun _ =>
    bind (readValue ht hr _) (fun _ => Keeps.pure _))))

variable (hw : (5#8, 2#32) ∈ es)

omit hr in
theorem writeOnce (a : RegAddr) (p : List Byte) : (writeOnce a p).Keeps es :=
  bind (look _) (fun _ => bind (adcFrame ht _) (fun _ => Keeps.pure _))

include hw

theorem writeReg (a : RegAddr) (p : List Byte) : (writeReg a p).Keeps es := by
  refine Keeps.retryLoop hw (fun _ => bind (writeOnce ht a p) (fun _ => bind (readReg ht hr a) (fun rb => ?_)))
  by_cases h : rb = p
  · rw [if_pos h]
    exact Keeps.pure _
  · rw [if_neg h]
    exact bind (Cmd.Within.update (fun _ => ⟨rfl, rfl, rfl, rfl, rfl⟩)) (fun _ => Keeps.pure _)

theorem updateReg (a : RegAddr) (f : BitVec 32 → BitVec 32) : (updateReg a f).Keeps es :=
  bind (readReg ht hr a) (fun _ => bind (look _) (fun _ => bind (writeReg ht hr hw a _) (fun _ => Keeps.pure _)))

/-- R138. -/
theorem setupChannel (i : Ch) (inPos inNeg : BitVec 5) : (setupChannel i inPos inNeg).Keeps es :=
  bind (look _) (fun _ => bind (look _) (fun _ => bind (updateReg ht hr hw _ _) (fun _ =>
    bind (updateReg ht hr hw _ _) (fun _ => bind (updateReg ht hr hw _ _) (fun _ => Keeps.pure _)))))

/-- R139. -/
theorem calibrateOffset (hp : (5#8, 4#32) ∈ es) : calibrateOffset.Keeps es := by
  refine bind (look _) (fun _ => bind (updateReg ht hr hw _ _) (fun _ => bind (Keeps.retryLoop hp fun _ => ?turn) (fun _ =>
    bind (updateReg ht hr hw _ _) (fun _ => Keeps.pure _))))
  case turn =>
    refine bind (bind (look _) (fun _ => readValue ht hr _)) (fun _ => bind (look _) (fun ready => ?_))
    cases ready <;> exact Keeps.pure _

end Registers

theorem checkBudget {loop : LoopId} (hl : (5#8, loop.info) ∈ es) (count : Nat) : (checkBudget loop count).Keeps es := by
  refine bind (Keeps.look _) (fun limit => ?_)
  cases limit with
  | none => exact Keeps.pure _
  | some limit =>
    by_cases h : limit < count + 1
    · simp only [h, if_true]
      exact Cmd.Within.raise (frame_kept es) (fun _ => hl)
    · simp only [h, if_false]
      exact Keeps.pure _

end Cmd.Keeps

/-! The operations that have an effect. -/

/-- How an operation with the effect `e a` for its answer a ends on b: well, with an answer that `good` allows and the effect; or
broken off without it, and only as listed. -/
def AtomicEnd {α : Type} (es : List (BitVec 8 × BitVec 32)) (good : Params → α → Prop) (e : α → Block → Block) (b : Block) :
    EStateM.Result Stop Block α → Prop
  | .ok a b' => good b.cfg a ∧ Kept (e a b) b'
  | .error s b' => Kept b b' ∧ s.among es

/-- R222: x has its effect when it ends well, and none when it breaks off. -/
def Cmd.Atomic {α : Type} (es : List (BitVec 8 × BitVec 32)) (good : Params → α → Prop) (e : α → Block → Block) (x : Cmd α) : Prop :=
  ∀ b, AtomicEnd es good e b (x b)

/-- A change that does not look at what is not kept. -/
def RespectsKept (e : Block → Block) : Prop := ∀ {b c : Block}, Kept b c → Kept (e b) (e c)

section Atomic

variable {α β : Type} {es : List (BitVec 8 × BitVec 32)} {good : Params → α → Prop} {e : α → Block → Block}

/-- What was kept before does not show in how an operation ends. -/
theorem AtomicEnd.of_kept {b c : Block} {r : EStateM.Result Stop Block α} (he : ∀ a, RespectsKept (e a)) (h : Kept b c)
    (hr : AtomicEnd es good e c r) : AtomicEnd es good e b r := by
  match r with
  | .ok a d => exact ⟨h.cfg ▸ hr.1, (he a h).trans hr.2⟩
  | .error s d => exact ⟨h.trans hr.1, hr.2⟩

namespace Cmd.Atomic

theorem of_keeps {x : Cmd α} (hx : x.Keeps es) : x.Atomic es (fun _ _ => True) (fun _ => id) := by
  intro b
  have hb := hx b
  cases hrun : x b with
  | ok a b' => rw [hrun] at hb; exact ⟨trivial, hb⟩
  | error s b' => rw [hrun] at hb; exact hb

theorem keeps_bind {x : Cmd β} {f : β → Cmd α} (he : ∀ a, RespectsKept (e a)) (hx : x.Keeps es)
    (hf : ∀ v, (f v).Atomic es good e) : (x >>= f).Atomic es good e := by
  intro b
  have hb := hx b
  rw [Cmd.run_bind]
  cases hrun : x b with
  | error s c => rw [hrun] at hb; exact hb
  | ok v c => rw [hrun] at hb; exact (hf v c).of_kept he hb

/-- What a turn of a retry loop answers when the loop answers well. -/
def turnGood (good : Params → α → Prop) (p : Params) : Turn α β → Prop
  | .done a => good p a
  | .again _ => True

/-- The effect of a turn of a retry loop: none while the loop goes on. -/
def turnEffect (e : α → Block → Block) : Turn α β → Block → Block
  | .done a => e a
  | .again _ => id

theorem respects_turnEffect (he : ∀ a, RespectsKept (e a)) : ∀ t : Turn α β, RespectsKept (turnEffect e t)
  | .done a => he a
  | .again _ => fun h => h

/-- A turn that ends the loop with its effect, or goes on without one. -/
theorem turn_bind {x : Cmd (Turn α β)} {f : Turn α β → Cmd α} (he : ∀ a, RespectsKept (e a))
    (hx : x.Atomic es (turnGood good) (turnEffect e)) (hdone : ∀ a, f (.done a) = pure a)
    (hagain : ∀ w, (f (.again w)).Atomic es good e) : (x >>= f).Atomic es good e := by
  intro b
  have hb := hx b
  rw [Cmd.run_bind]
  cases hrun : x b with
  | error s c => rw [hrun] at hb; exact hb
  | ok t c =>
    rw [hrun] at hb
    cases t with
    | done a =>
      show AtomicEnd es good e b (f (.done a) c)
      rw [hdone]
      exact hb
    | again w => exact (hagain w c).of_kept he hb.2

/-- R219: a retry loop is as atomic as its turns. -/
theorem retryFrom {loop : LoopId} {body : β → Cmd (Turn α β)} (he : ∀ a, RespectsKept (e a)) (hl : (5#8, loop.info) ∈ es)
    (hb : ∀ v, (body v).Atomic es (turnGood good) (turnEffect e)) :
    ∀ fuel count v, (retryFrom loop body fuel count v).Atomic es good e
  | 0, count, v => by
    rw [Machine.retryFrom]
    refine turn_bind he (hb v) (fun _ => rfl) (fun w => keeps_bind he (Keeps.checkBudget hl count) (fun _ => ?_))
    exact fun b => ⟨Kept.refl b, trivial⟩
  | fuel + 1, count, v => by
    rw [Machine.retryFrom]
    exact turn_bind he (hb v) (fun _ => rfl) (fun w =>
      keeps_bind he (Keeps.checkBudget hl count) (fun _ => Atomic.retryFrom he hl hb fuel (count + 1) w))

end Cmd.Atomic

end Atomic

/-- R135. -/
theorem resetAdc_atomic : resetAdc.Atomic (initErrors .reset) (fun _ _ => True) (fun _ b => b.setCkmode .off) :=
  Cmd.Atomic.keeps_bind (fun _ _ _ h => h.setCkmode .off) (Cmd.Keeps.adcFrame (by decide) _)
    (fun _ b => ⟨trivial, Kept.refl _⟩)

/-- R136: the ID is stored in the turn that ends the loop. -/
theorem identify_atomic :
    identify.Atomic (initErrors .identify) (fun p id => p.ofFamily id = true) (fun id b => b.setAdcId id) := by
  have he : ∀ id : BitVec 16, RespectsKept (fun b => b.setAdcId id) := fun id _ _ h => h.setAdcId id
  have ht := Cmd.Atomic.respects_turnEffect (β := Unit) he
  refine Cmd.Atomic.keeps_bind he (Cmd.Keeps.look _) (fun fuel =>
    Cmd.Atomic.retryFrom he (by decide) (fun _ => ?turn) fuel 0 ())
  refine Cmd.Atomic.keeps_bind ht (Cmd.Keeps.look _) (fun a => ?_)
  refine Cmd.Atomic.keeps_bind ht (Cmd.Keeps.readValue (by decide) (by decide) a) (fun v b => ?_)
  simp only [Cmd.run_bind, Cmd.run_look]
  cases hok : b.cfg.ofFamily (v.setWidth 16)
  · exact ⟨trivial, rfl, rfl, rfl, rfl, rfl⟩
  · exact ⟨hok, Kept.refl _⟩

/-- R137. -/
theorem setChecksumMode_atomic (m : CkMode) :
    (setChecksumMode m).Atomic (initErrors .cksum) (fun _ _ => True) (fun _ b => b.setCkmode m) := by
  have he : ∀ _ : Unit, RespectsKept (fun b => b.setCkmode m) := fun _ _ _ h => h.setCkmode m
  exact Cmd.Atomic.keeps_bind he (Cmd.Keeps.look _) (fun _ =>
    Cmd.Atomic.keeps_bind he (Cmd.Keeps.updateReg (by decide) (by decide) (by decide) _ _)
      (fun _ b => ⟨trivial, Kept.refl _⟩))

/-- R138: registers of the ADC, but nothing of the block. -/
theorem setupChannel_atomic (i : Ch) (inPos inNeg : BitVec 5) :
    (setupChannel i inPos inNeg).Atomic (initErrors .setup) (fun _ _ => True) (fun _ => id) :=
  Cmd.Atomic.of_keeps (Cmd.Keeps.setupChannel (by decide) (by decide) (by decide) i inPos inNeg)

/-- R139: likewise. -/
theorem calibrateOffset_atomic : calibrateOffset.Atomic (initErrors .calibrate) (fun _ _ => True) (fun _ => id) :=
  Cmd.Atomic.of_keeps (Cmd.Keeps.calibrateOffset (by decide) (by decide) (by decide) (by decide))

/-- R140. -/
theorem getCalibration_atomic (i : Ch) :
    (getCalibration i).Atomic (initErrors .capture) (fun _ _ => True) (fun k b => b.updCh i (Channel.captureCal k)) :=
  Cmd.Atomic.keeps_bind (fun k _ _ h => h.updCh i (Channel.captureCal k)) (Cmd.Keeps.readCal (by decide) (by decide) i)
    (fun _ b => ⟨trivial, Kept.refl _⟩)

/-! The steps of ADC_INIT. -/

theorem captureCal_isSome (k : AdcCal) (c : Channel) : (c.captureCal k).cal.isSome = true := by
  unfold Channel.captureCal
  cases h : c.cal with
  | none => rfl
  | some k' => exact (congrArg Option.isSome h).trans rfl

theorem idOfFamily_intro {b : Block} {id : BitVec 16} (h : b.adcId = some id) (hf : b.cfg.ofFamily id = true) : idOfFamily b :=
  ⟨id, h, (ofFamily_eq _ _).symm.trans hf⟩

/-- What ADC_INIT has done shows in the fields it writes. -/
theorem initReached_of_kept {b0 b c : Block} (h : Kept b c) (hb : initReached b0 b) : initReached b0 c := by
  simpa only [initReached, idOfFamily, h.cfg, h.phase, h.ckmode, h.adcId, h.ch] using hb

/-- R147: how ADC_INIT, begun on b0, may end. -/
def InitEnd (b0 : Block) : EStateM.Result Stop Block (BitVec 16) → Prop
  | .ok id t => initReached b0 t ∧ t.phase = .run ∧ t.adcId = some id
  | .error s t => initReached b0 t ∧ t.phase ≠ .run ∧ s.among (initErrors t.phase)

/-- From b on, or from any block that has kept what b holds, x brings an ADC_INIT begun on b0 to such an end. -/
def InitRuns (b0 b : Block) (x : Cmd (BitVec 16)) : Prop := ∀ t, Kept b t → InitEnd b0 (x t)

namespace InitRuns

variable {α : Type} {b0 b : Block}

/-- A step, in the phase that names it: broken off in it, ADC_INIT has reached what it had before. -/
theorem atomic_bind {p : Phase} {good : Params → α → Prop} {e : α → Block → Block} {x : Cmd α} {f : α → Cmd (BitVec 16)}
    (hx : x.Atomic (initErrors p) good e) (he : ∀ a, RespectsKept (e a)) (hp : b.phase = p) (hrun : p ≠ .run)
    (hb : initReached b0 b) (hf : ∀ a, good b.cfg a → InitRuns b0 (e a b) (f a)) : InitRuns b0 b (x >>= f) := by
  intro t ht
  have hend := (hx t).of_kept he ht
  rw [Cmd.run_bind]
  cases hxt : x t with
  | ok a t' =>
    rw [hxt] at hend
    exact hf a hend.1 t' hend.2
  | error s t' =>
    rw [hxt] at hend
    obtain ⟨hkept, hs⟩ := hend
    have hphase : t'.phase = p := hkept.phase.trans hp
    exact ⟨initReached_of_kept hkept hb, hphase ▸ hrun, hphase ▸ hs⟩

theorem update_bind {e : Block → Block} {f : Unit → Cmd (BitVec 16)} (he : RespectsKept e)
    (hf : InitRuns b0 (e b) (f ())) : InitRuns b0 b (update e >>= f) := fun t ht => hf (e t) (he ht)

theorem look_bind {g : Params → α} {f : α → Cmd (BitVec 16)} (hf : InitRuns b0 b (f (g b.cfg))) :
    InitRuns b0 b (look (fun b => g b.cfg) >>= f) := by
  intro t ht
  rw [Cmd.run_bind_ok (Cmd.run_look _ t), ht.cfg]
  exact hf t ht

theorem pure {id : BitVec 16} (hb : initReached b0 b) (hp : b.phase = .run) (hid : b.adcId = some id) :
    InitRuns b0 b (Pure.pure id) :=
  fun _ ht => ⟨initReached_of_kept ht hb, ht.phase.trans hp, ht.adcId.trans hid⟩

end InitRuns

/-- R147, R222: the steps of ADC_INIT one after the other. -/
theorem adcInit_runs (b : Block) : InitRuns b b adcInit := by
  have hphase : ∀ p, RespectsKept (·.setPhase p) := fun p _ _ h => h.setPhase p
  have hmode : ∀ m, RespectsKept (·.setCkmode m) := fun m _ _ h => h.setCkmode m
  have hcal : ∀ i k, RespectsKept (·.updCh i (Channel.captureCal k)) := fun i k _ _ h => h.updCh i _
  have hnone : ∀ _ : Unit, RespectsKept id := fun _ _ _ h => h
  refine InitRuns.update_bind (hphase .reset) ?_
  refine InitRuns.atomic_bind resetAdc_atomic (fun _ => hmode .off) rfl (by decide) (And.intro rfl ⟨rfl, rfl, rfl⟩)
    (fun _ _ => ?_)
  refine InitRuns.update_bind (hphase .identify) ?_
  refine InitRuns.atomic_bind identify_atomic (fun id _ _ h => h.setAdcId id) rfl (by decide) (And.intro rfl ⟨rfl, rfl, rfl⟩)
    (fun id hid => ?_)
  refine InitRuns.update_bind (hphase .cksum) (InitRuns.look_bind ?_)
  refine InitRuns.atomic_bind (setChecksumMode_atomic _) (fun _ => hmode _) rfl (by decide)
    (And.intro rfl ⟨idOfFamily_intro rfl hid, rfl, rfl⟩) (fun _ _ => ?_)
  refine InitRuns.update_bind (hphase .setup) (InitRuns.look_bind ?_)
  refine InitRuns.atomic_bind (setupChannel_atomic _ _ _) hnone rfl (by decide)
    (And.intro rfl ⟨idOfFamily_intro rfl hid, rfl, rfl⟩) (fun _ _ => ?_)
  refine InitRuns.atomic_bind (setupChannel_atomic _ _ _) hnone rfl (by decide)
    (And.intro rfl ⟨idOfFamily_intro rfl hid, rfl, rfl⟩) (fun _ _ => ?_)
  refine InitRuns.update_bind (hphase .calibrate) ?_
  refine InitRuns.atomic_bind calibrateOffset_atomic hnone rfl (by decide)
    (And.intro rfl ⟨idOfFamily_intro rfl hid, rfl, rfl⟩) (fun _ _ => ?_)
  refine InitRuns.update_bind (hphase .capture) ?_
  refine InitRuns.atomic_bind (getCalibration_atomic .c0) (hcal .c0) rfl (by decide)
    (And.intro rfl ⟨idOfFamily_intro rfl hid, rfl⟩) (fun k0 _ => ?_)
  refine InitRuns.atomic_bind (getCalibration_atomic .c1) (hcal .c1) rfl (by decide)
    (And.intro rfl ⟨idOfFamily_intro rfl hid, rfl⟩) (fun k1 _ => ?_)
  refine InitRuns.update_bind (hphase .run) (InitRuns.pure ?_ rfl rfl)
  exact And.intro rfl ⟨idOfFamily_intro rfl hid, captureCal_isSome k0 _, captureCal_isSome k1 _⟩

end Sys2Proof.Machine
end

section
/-! ADC_INIT as a command (42_adc_protocol.md R147): its fault-free run, a reset frame that fails, and every other way it can end. -/

namespace Sys2Proof.Machine

open Safety

theorem exec_adcInit (s : State) : exec .adcInit s = .next (settle .adcInit s (bodyAdcInit s.toBlock)) := rfl

theorem bodyAdcInit_ok {b b' : Block} {id : BitVec 16} (h : adcInit b = .ok id b') :
    bodyAdcInit b = .ok (resultD (id.setWidth 32)) b' := by
  rw [bodyAdcInit, Cmd.run_bind_ok h, Cmd.run_pure]

theorem bodyAdcInit_error {b b' : Block} {e : Stop} (h : adcInit b = .error e b') : bodyAdcInit b = .error e b' := by
  rw [bodyAdcInit, Cmd.run_bind_error h]

/-- R64, R135, R216: a reset frame whose transfer fails. -/
theorem resetAdc_fails {b : Block} {a : Answer} {rest : List Answer} (hn : b.nss = .high) (hs : b.script = a :: rest)
    (ha : a.fails = true) : resetAdc b = .error (.raised (.transport .adc)) (afterResetFail b rest) := by
  simp only [resetAdc, adcFrame, adcParts, Cmd.run_bind, Cmd.run_pinSet, Cmd.run_onStop, run_spiXfer, Block.nextAnswer_drive,
    nextAnswer_cons hs, ha, if_true]
  simp only [afterResetFail, Block.drive, Block.setPin, Block.record, Block.consumed, hs, List.tail_cons, hn]

theorem adcInit_fails {b : Block} {a : Answer} {rest : List Answer} (hn : b.nss = .high) (hs : b.script = a :: rest)
    (ha : a.fails = true) :
    adcInit b = .error (.raised (.transport .adc)) (afterResetFail (b.setPhase .reset) rest) := by
  rw [adcInit, Cmd.run_bind_ok (Cmd.run_update _ b), Cmd.run_bind_error (resetAdc_fails (b := b.setPhase .reset) hn hs ha)]

/-- R24, R147, R222: however ADC_INIT ends, its phase says how far it got and with what it can have ended. -/
theorem settle_adcInit {s : State} {r : EStateM.Result Stop Block (BitVec 16)} (hend : InitEnd s.toBlock r)
    (hr : adcInit s.toBlock = r) :
    let t := settle .adcInit s (bodyAdcInit s.toBlock)
    initReached s.toBlock t.toBlock ∧ (t.running.isSome = true → t.phase ≠ .run) ∧
      (t.running = none →
        (t.phase = .run → t.rStatus = 0#8 ∧ t.rD = t.adcId.map (·.setWidth 32)) ∧
        (t.phase ≠ .run → endedWith t (initErrors t.phase))) := by
  match r with
  | .ok id b =>
    obtain ⟨hreached, hphase, hid⟩ := hend
    rw [bodyAdcInit_ok hr, settle_ok]
    have hresult : (b.adcId.map (·.setWidth 32) : Option (BitVec 32)) = some (id.setWidth 32) := by rw [hid]; rfl
    exact ⟨initReached_of_kept ⟨rfl, rfl, rfl, rfl, rfl⟩ hreached, fun h => absurd h Bool.false_ne_true,
      fun _ => ⟨fun _ => ⟨rfl, hresult.symm⟩, fun h => absurd hphase h⟩⟩
  | .error (.raised e) b =>
    obtain ⟨hreached, hphase, herror⟩ := hend
    rw [bodyAdcInit_error hr, settle_raised]
    exact ⟨initReached_of_kept ⟨rfl, rfl, rfl, rfl, rfl⟩ hreached, fun h => absurd h Bool.false_ne_true,
      fun _ => ⟨fun h => absurd h hphase, fun _ => ⟨e.info, rfl, herror⟩⟩⟩
  | .error .paused b =>
    obtain ⟨hreached, hphase, -⟩ := hend
    rw [bodyAdcInit_error hr, settle_paused]
    exact ⟨hreached, fun _ => hphase, fun h => nomatch h⟩

/-- Settles O33: fault-free, the six bodies exchange the frames of `initFrames` one after the other; a failing reset frame ends the
command there; and each step is atomic, so whatever it meets the phase says what has been done. -/
theorem adcInitCompletes : Obligations.AdcInitCompletes := by
  unfold Obligations.AdcInitCompletes
  refine ⟨fun s r as rest hn hp hb hconv => ?faultFree, fun s a rest hn hs ha => ?resetFails, fun s t hexec => ?anyAnswers⟩
  case faultFree =>
    have hinit : adcInit s.toBlock = .ok _ (afterInit s.toBlock r as rest) := (adcInit_exchanges hn hp hb).run hconv
    rw [exec_adcInit, bodyAdcInit_ok hinit, settle_ok]
    rfl
  case resetFails =>
    rw [exec_adcInit, bodyAdcInit_error (adcInit_fails hn hs ha), settle_raised]
    rfl
  case anyAnswers =>
    rw [exec_adcInit] at hexec
    obtain rfl : settle .adcInit s (bodyAdcInit s.toBlock) = t := by injection hexec
    exact settle_adcInit (adcInit_runs s.toBlock s.toBlock (Kept.refl _)) rfl

end Sys2Proof.Machine
end

section
/-! The DAC word (43_dac.md R154): which bits of the code each packed byte holds, and the code read back from them. -/

namespace Sys2Proof.Machine

/-! The bits of the three bytes. -/

/-- The first byte holds v[17:14] and nothing above it. -/
theorem getLsbD_dacPack_first (v : DacCode) (i : Nat) : ((v >>> 14).setWidth 8).getLsbD i = v.getLsbD (14 + i) := by
  by_cases hi : i < 8
  · simp [hi]
  · simp [hi, BitVec.getLsbD_of_ge v (14 + i) (by omega)]

/-- The second byte holds v[13:6]. -/
theorem getLsbD_dacPack_middle (v : DacCode) {i : Nat} (hi : i < 8) :
    ((v >>> 6).setWidth 8).getLsbD i = v.getLsbD (6 + i) := by
  simp [hi]

/-- The last byte holds v[5:0] above two padding bits. -/
theorem getLsbD_dacPack_last (v : DacCode) {i : Nat} (hi : i < 8) :
    ((v <<< 2).setWidth 8).getLsbD i = (decide (2 ≤ i) && v.getLsbD (i - 2)) := by
  by_cases hpad : i < 2
  · have hlow : ¬ 2 ≤ i := by omega
    simp [hi, hpad, hlow]
  · have hhigh : 2 ≤ i := by omega
    simp [hi, hpad, hhigh]

/-! Unpacking. -/

/-- Each byte read in its place, the last one without its padding. -/
theorem getLsbD_dacUnpack (b0 b1 b2 : Byte) {i : Nat} (hi : i < 18) : (dacUnpack b0 b1 b2).getLsbD i =
    ((!decide (i < 14) && b0.getLsbD (i - 14)) || (!decide (i < 6) && b1.getLsbD (i - 6)) || b2.getLsbD (2 + i)) := by
  have hlast : (decide (2 + i < 18) && b2.getLsbD (2 + i)) = b2.getLsbD (2 + i) := by
    by_cases h : 2 + i < 18
    · simp [h]
    · simp [h, BitVec.getLsbD_of_ge b2 (2 + i) (by omega)]
  simp [dacUnpack, hi, hlast]

/-- R154: the three bytes do not overlap in the code, so each bit is recovered from the one byte that holds it. -/
theorem dacUnpack_dacPack (v : DacCode) :
    dacUnpack ((v >>> 14).setWidth 8) ((v >>> 6).setWidth 8) ((v <<< 2).setWidth 8) = v := by
  apply BitVec.eq_of_getLsbD_eq
  intro i hi
  rw [getLsbD_dacUnpack _ _ _ hi, getLsbD_dacPack_first]
  rcases (by omega : i < 6 ∨ 6 ≤ i ∧ i < 14 ∨ 14 ≤ i) with hlast | ⟨hsix, hmiddle⟩ | hfirst
  · have hmiddle : i < 14 := by omega
    rw [getLsbD_dacPack_last v (by omega : 2 + i < 8)]
    simp [hlast, hmiddle]
  · rw [getLsbD_dacPack_middle v (by omega : i - 6 < 8), BitVec.getLsbD_of_ge ((v <<< 2).setWidth 8) (2 + i) (by omega),
      Nat.add_sub_cancel' hsix]
    simp [hmiddle, Nat.not_lt.mpr hsix]
  · have hsix : ¬ i < 6 := by omega
    have hmiddle : ((v >>> 6).setWidth 8).getLsbD (i - 6) = false := BitVec.getLsbD_of_ge _ _ (by omega)
    rw [hmiddle, BitVec.getLsbD_of_ge ((v <<< 2).setWidth 8) (2 + i) (by omega), Nat.add_sub_cancel' hfirst]
    simp [Nat.not_lt.mpr hfirst]

/-! The padding. -/

theorem dacPack_first_padding (v : DacCode) : ((v >>> 14).setWidth 8).extractLsb' 4 4 = 0#4 := by
  apply BitVec.eq_of_getLsbD_eq
  intro i hi
  rw [BitVec.getLsbD_extractLsb', getLsbD_dacPack_first, BitVec.getLsbD_of_ge v (14 + (4 + i)) (by omega), Bool.and_false,
    BitVec.getLsbD_zero]

theorem dacPack_last_padding (v : DacCode) : ((v <<< 2).setWidth 8).extractLsb' 0 2 = 0#2 := by
  apply BitVec.eq_of_getLsbD_eq
  intro i hi
  have hlow : ¬ 2 ≤ 0 + i := by omega
  rw [BitVec.getLsbD_extractLsb', getLsbD_dacPack_last v (by omega : 0 + i < 8), decide_eq_false hlow, Bool.false_and,
    Bool.and_false, BitVec.getLsbD_zero]

/-- Settles O38: the bytes are DacPack's own, so their unpacking is the round trip and the rest of them is padding. -/
theorem dacPackingRecovers : Obligations.DacPackingRecovers := by
  unfold Obligations.DacPackingRecovers
  refine fun v => ⟨rfl, fun b0 b1 b2 hbytes => ?_⟩
  simp only [dacPack, List.cons.injEq, and_true] at hbytes
  obtain ⟨rfl, rfl, rfl⟩ := hbytes
  exact ⟨dacUnpack_dacPack v, dacPack_first_padding v, dacPack_last_padding v⟩

end Sys2Proof.Machine
end

section
/-! Whole numbers and binary64 (R13): the order of positive patterns as an order of magnitude bits, whole numbers below 2^53 held
exactly, and the integer part of a positive value as the largest whole number not above it. -/

namespace Sys2Proof.Machine

/-! The magnitude bits. -/

/-- The 63 bits of a pattern below its sign. -/
def F64.mag (x : F64) : Nat := (x.extractLsb' 0 63).toNat

theorem F64.mag_eq_mod (x : F64) : F64.mag x = x.toNat % 2 ^ 63 := by
  simp [F64.mag, BitVec.extractLsb'_toNat]

theorem F64.expField_eq_mag_div (x : F64) : F64.expField x = F64.mag x / 2 ^ 52 := by
  have hx : x.toNat < 2 ^ 64 := x.isLt
  simp only [F64.expField, F64.mag_eq_mod, BitVec.extractLsb'_toNat, Nat.shiftRight_eq_div_pow]
  omega

theorem F64.frac_eq_mag_mod (x : F64) : F64.frac x = F64.mag x % 2 ^ 52 := by
  simp only [F64.frac, F64.mag_eq_mod, BitVec.extractLsb'_toNat, Nat.shiftRight_zero]
  omega

theorem F64.frac_lt (x : F64) : F64.frac x < 2 ^ 52 := (x.extractLsb' 0 52).isLt

/-- The magnitude is the exponent field above the fraction field. -/
theorem F64.mag_eq (x : F64) : F64.mag x = F64.expField x * 2 ^ 52 + F64.frac x := by
  rw [F64.expField_eq_mag_div, F64.frac_eq_mag_mod, Nat.div_add_mod']

/-- The NaNs lie above the infinity. -/
theorem F64.isNaN_eq_false_iff (x : F64) : F64.isNaN x = false ↔ F64.mag x ≤ F64.infMag := by
  have hmag := F64.mag_eq x
  have hfrac := F64.frac_lt x
  have hexp : F64.expField x < 2 ^ 11 := (x.extractLsb' 52 11).isLt
  simp only [F64.isNaN, F64.infMag, Bool.and_eq_false_iff, beq_eq_false_iff_ne, bne_eq_false_iff_eq]
  omega

theorem F64.mag_pack {mag : Nat} (h : mag < 2 ^ 63) : F64.mag (F64.pack false mag) = mag := by
  simp only [F64.mag_eq_mod, F64.pack, Bool.false_eq_true, if_false, BitVec.toNat_ofNat]
  omega

theorem F64.key_eq (x : F64) : F64.key x = signedInt (F64.sign x) (F64.mag x) := rfl

theorem F64.key_pack {mag : Nat} (h : mag < 2 ^ 63) : F64.key (F64.pack false mag) = mag := by
  have hsign : F64.sign (F64.pack false mag) = false := by
    simp only [F64.sign, F64.pack, Bool.false_eq_true, if_false, zero_add, BitVec.getLsbD_ofNat, Nat.testBit_lt_two_pow h,
      Bool.and_false]
  rw [F64.key_eq, hsign, F64.mag_pack h]
  rfl

/-- The order of a positive pattern is that of its magnitude bits. -/
theorem F64.key_of_pos {x : F64} (h : 0 < F64.key x) : F64.key x = F64.mag x := by
  rw [F64.key_eq] at h ⊢
  cases hsign : F64.sign x with
  | false => rfl
  | true =>
    simp only [hsign, signedInt, if_true] at h
    omega

theorem F64.lt_iff {a b : F64} :
    F64.lt a b = true ↔ F64.isNaN a = false ∧ F64.isNaN b = false ∧ F64.key a < F64.key b := by
  simp [F64.lt, and_assoc]

theorem F64.le_iff {a b : F64} :
    F64.le a b = true ↔ F64.isNaN a = false ∧ F64.isNaN b = false ∧ F64.key a ≤ F64.key b := by
  simp [F64.le, and_assoc]

theorem F64.not_le_of_lt {a b : F64} (h : F64.lt a b = true) : ¬ F64.le b a = true := by
  intro hle
  obtain ⟨-, -, hkey⟩ := F64.lt_iff.mp h
  obtain ⟨-, -, hkey'⟩ := F64.le_iff.mp hle
  exact hkey'.not_gt hkey

theorem F64.lt_of_lt_of_le {a b c : F64} (hab : F64.lt a b = true) (hbc : F64.le b c = true) : F64.lt a c = true := by
  obtain ⟨ha, -, hkey⟩ := F64.lt_iff.mp hab
  obtain ⟨-, hc, hkey'⟩ := F64.le_iff.mp hbc
  exact F64.lt_iff.mpr ⟨ha, hc, hkey.trans_le hkey'⟩

/-! Significands and exponents. -/

/-- Numbers written as significand and exponent, the significands in one binade, are ordered as their exponent and significand
side by side. -/
theorem binade_lt {u m n i j : Nat} (hm : m < 2 * u) (hn : u ≤ n) (hij : i < j) :
    i * u + m < j * u + n ∧ m * 2 ^ i < n * 2 ^ j := by
  constructor
  · have hmul : (i + 1) * u ≤ j * u := Nat.mul_le_mul_right u hij
    rw [Nat.add_mul] at hmul
    omega
  · calc m * 2 ^ i < 2 * u * 2 ^ i := Nat.mul_lt_mul_of_pos_right hm (Nat.two_pow_pos i)
      _ = u * 2 ^ (i + 1) := by ring
      _ ≤ n * 2 ^ j := Nat.mul_le_mul hn (Nat.pow_le_pow_right (by decide) hij)

theorem binade_le_iff {u m n i j : Nat} (hm : u ≤ m) (hm' : m < 2 * u) (hn : u ≤ n) (hn' : n < 2 * u) :
    i * u + m ≤ j * u + n ↔ m * 2 ^ i ≤ n * 2 ^ j := by
  rcases lt_trichotomy i j with hij | rfl | hij
  · obtain ⟨hbits, hvalue⟩ := binade_lt hm' hn hij
    exact iff_of_true hbits.le hvalue.le
  · rw [Nat.add_le_add_iff_left, Nat.mul_le_mul_right_iff (Nat.two_pow_pos i)]
  · obtain ⟨hbits, hvalue⟩ := binade_lt hn' hm hij
    exact iff_of_false hbits.not_ge hvalue.not_ge

/-! Whole numbers. -/

/-- The significand of a whole number, scaled to 53 bits. -/
def natSignificand (n : Nat) : Nat := n * 2 ^ (52 - n.log2)

/-- The magnitude bits of a whole number: its exponent field, less the significand's leading bit, above the significand. -/
def natMag (n : Nat) : Nat := (n.log2 + 1022) * 2 ^ 52 + natSignificand n

section WholeNumbers
variable {n : Nat} (hpos : 0 < n) (hlt : n < 2 ^ 53)
include hpos hlt

theorem log2_le_52 : n.log2 ≤ 52 :=
  Nat.lt_succ_iff.mp ((Nat.log2_lt hpos.ne').mpr hlt)

theorem natSignificand_mul : natSignificand n * 2 ^ n.log2 = n * 2 ^ 52 := by
  rw [natSignificand, Nat.mul_assoc, ← Nat.pow_add, Nat.sub_add_cancel (log2_le_52 hpos hlt)]

theorem two_pow_52_le_natSignificand : 2 ^ 52 ≤ natSignificand n := by
  refine Nat.le_of_mul_le_mul_right ?_ (Nat.two_pow_pos n.log2)
  rw [natSignificand_mul hpos hlt, Nat.mul_comm]
  exact Nat.mul_le_mul_right _ (Nat.log2_self_le hpos.ne')

theorem natSignificand_lt : natSignificand n < 2 * 2 ^ 52 := by
  refine Nat.lt_of_mul_lt_mul_right (a := 2 ^ n.log2) ?_
  calc natSignificand n * 2 ^ n.log2 = n * 2 ^ 52 := natSignificand_mul hpos hlt
    _ < 2 ^ (n.log2 + 1) * 2 ^ 52 := Nat.mul_lt_mul_of_pos_right Nat.lt_log2_self (Nat.two_pow_pos 52)
    _ = 2 * 2 ^ 52 * 2 ^ n.log2 := by ring

theorem natMag_lt_infMag : natMag n < F64.infMag := by
  have hexp := log2_le_52 hpos hlt
  have hsig := natSignificand_lt hpos hlt
  rw [natMag, F64.infMag]
  omega

/-- R13: a whole number of at most 53 bits is held exactly. -/
theorem F64.ofNat_eq_pack : F64.ofNat n = F64.pack false (natMag n) := by
  have hexp := log2_le_52 hpos hlt
  have hunit : max ((0 : Int) + (n.log2 : Int) - 52) (-1074) = (n.log2 : Int) - 52 := by omega
  have hexact : ((n.log2 : Int) - 52) ≤ 0 := by omega
  have hshift : (0 - ((n.log2 : Int) - 52)).toNat = 52 - n.log2 := by omega
  have hfield : ((n.log2 : Int) - 52 + 1074).toNat = n.log2 + 1022 := by omega
  simp only [F64.ofNat, F64.round, hunit, hshift, hfield, if_neg hpos.ne', if_pos hexact, Nat.shiftLeft_eq]
  exact if_neg (natMag_lt_infMag hpos hlt).not_ge

end WholeNumbers

theorem F64.isNaN_zero : F64.isNaN zeroF = false := rfl

theorem F64.key_zero : F64.key zeroF = 0 := rfl

theorem F64.isNaN_ofNat {n : Nat} (hlt : n < 2 ^ 53) : F64.isNaN (F64.ofNat n) = false := by
  rcases n.eq_zero_or_pos with rfl | hpos
  · exact F64.isNaN_zero
  · have hmag := natMag_lt_infMag hpos hlt
    rw [F64.isNaN_eq_false_iff, F64.ofNat_eq_pack hpos hlt, F64.mag_pack (hmag.trans (by decide))]
    exact hmag.le

theorem F64.key_ofNat {n : Nat} (hpos : 0 < n) (hlt : n < 2 ^ 53) : F64.key (F64.ofNat n) = natMag n := by
  rw [F64.ofNat_eq_pack hpos hlt, F64.key_pack ((natMag_lt_infMag hpos hlt).trans (by decide))]

theorem F64.zeroF_lt_ofNat {n : Nat} (hpos : 0 < n) (hlt : n < 2 ^ 53) : F64.lt zeroF (F64.ofNat n) = true := by
  have hsig := two_pow_52_le_natSignificand hpos hlt
  refine F64.lt_iff.mpr ⟨F64.isNaN_zero, F64.isNaN_ofNat hlt, ?_⟩
  rw [F64.key_zero, F64.key_ofNat hpos hlt, natMag]
  omega

/-! The integer part: a shift of the significand either way, as one scaling with d fraction bits. -/

theorem shiftLeft_eq_mul_div {m i d k : Nat} (h : i + d = k) : m <<< i = m * 2 ^ k / 2 ^ d := by
  rw [Nat.shiftLeft_eq, ← h, Nat.pow_add, ← Nat.mul_assoc, Nat.mul_div_cancel _ (Nat.two_pow_pos d)]

theorem shiftRight_eq_mul_div {m i d k : Nat} (h : k + i = d) : m >>> i = m * 2 ^ k / 2 ^ d := by
  rw [Nat.shiftRight_eq_div_pow, ← h, Nat.pow_add, Nat.mul_comm m, Nat.mul_div_mul_left _ _ (Nat.two_pow_pos k)]

theorem F64.unpack_of_subnormal {x : F64} (h : F64.expField x = 0) :
    F64.unpack x = .fin (F64.sign x) (F64.frac x) (-1074) := by
  rw [F64.unpack, if_neg (by omega), if_pos h]

theorem F64.unpack_of_normal {x : F64} (hpos : 0 < F64.expField x) (hfin : F64.expField x < 2047) :
    F64.unpack x = .fin (F64.sign x) (2 ^ 52 + F64.frac x) ((F64.expField x : Int) - 1075) := by
  rw [F64.unpack, if_neg (by omega), if_neg (by omega)]

/-- Below 1.0. -/
theorem F64.truncNat_of_expField_lt {x : F64} (h : F64.expField x < 1023) : F64.truncNat x = 0 := by
  have hfrac := F64.frac_lt x
  rcases Nat.eq_zero_or_pos (F64.expField x) with hsub | hpos
  · have hsmall : F64.frac x < 2 ^ (-(-1074 : Int)).toNat := hfrac.trans (Nat.pow_lt_pow_right (by decide) (by decide))
    simp only [F64.truncNat, F64.unpack_of_subnormal hsub, Nat.shiftRight_eq_div_pow]
    exact Nat.div_eq_of_lt hsmall
  · have hneg : ¬ 0 ≤ (F64.expField x : Int) - 1075 := by omega
    have hbig : 2 ^ 53 ≤ 2 ^ (-((F64.expField x : Int) - 1075)).toNat := Nat.pow_le_pow_right (by decide) (by omega)
    simp only [F64.truncNat, F64.unpack_of_normal hpos (h.trans (by decide)), if_neg hneg, Nat.shiftRight_eq_div_pow]
    exact Nat.div_eq_of_lt (by omega)

/-- From 1.0 up: the significand scaled by the exponent. -/
theorem F64.truncNat_of_le_expField {x : F64} (hlow : 1023 ≤ F64.expField x) (hfin : F64.expField x < 2047) :
    F64.truncNat x = (2 ^ 52 + F64.frac x) * 2 ^ (F64.expField x - 1023) / 2 ^ 52 := by
  simp only [F64.truncNat, F64.unpack_of_normal (Nat.lt_of_lt_of_le (by decide) hlow) hfin]
  by_cases hint : 1075 ≤ F64.expField x
  · rw [if_pos (by omega), shiftLeft_eq_mul_div (by omega : _ + 52 = F64.expField x - 1023)]
  · rw [if_neg (by omega), shiftRight_eq_mul_div (by omega : F64.expField x - 1023 + _ = 52)]

/-- The integer part of a positive value is the largest whole number that is not above it. -/
theorem F64.ofNat_le_iff {n : Nat} {x : F64} (hn : n < 2 ^ 53) (hx : F64.lt zeroF x = true) (hfin : F64.expField x < 2047) :
    F64.le (F64.ofNat n) x = true ↔ n ≤ F64.truncNat x := by
  obtain ⟨-, hxnan, hxpos⟩ := F64.lt_iff.mp hx
  rw [F64.key_zero] at hxpos
  rcases n.eq_zero_or_pos with rfl | hpos
  · exact iff_of_true (F64.le_iff.mpr ⟨F64.isNaN_zero, hxnan, hxpos.le⟩) (Nat.zero_le _)
  · have hsig := two_pow_52_le_natSignificand hpos hn
    have hsig' := natSignificand_lt hpos hn
    have hfrac := F64.frac_lt x
    have horder : F64.le (F64.ofNat n) x = true ↔ natMag n ≤ F64.expField x * 2 ^ 52 + F64.frac x := by
      rw [F64.le_iff, F64.key_ofNat hpos hn, F64.key_of_pos hxpos, F64.mag_eq x, Int.ofNat_le]
      exact ⟨fun ⟨_, _, h⟩ => h, fun h => ⟨F64.isNaN_ofNat hn, hxnan, h⟩⟩
    rw [horder, natMag]
    by_cases hlow : F64.expField x < 1023
    · rw [F64.truncNat_of_expField_lt hlow]
      exact iff_of_false (by omega) hpos.not_ge
    · have hbinade : F64.expField x * 2 ^ 52 + F64.frac x =
          (F64.expField x - 1023 + 1022) * 2 ^ 52 + (2 ^ 52 + F64.frac x) := by omega
      rw [F64.truncNat_of_le_expField (Nat.le_of_not_lt hlow) hfin, Nat.le_div_iff_mul_le (Nat.two_pow_pos 52),
        ← natSignificand_mul hpos hn, ← binade_le_iff hsig hsig' (Nat.le_add_right _ _) (by omega), hbinade]
      omega

theorem F64.lt_ofNat_iff {n : Nat} {x : F64} (hn : n < 2 ^ 53) (hx : F64.lt zeroF x = true) (hfin : F64.expField x < 2047) :
    F64.lt x (F64.ofNat n) = true ↔ F64.truncNat x < n := by
  obtain ⟨-, hxnan, -⟩ := F64.lt_iff.mp hx
  rw [← Nat.not_le, ← F64.ofNat_le_iff hn hx hfin, F64.le_iff, F64.lt_iff]
  simp only [hxnan, F64.isNaN_ofNat hn, true_and, Int.not_le]

/-- A positive value below a whole number is finite. -/
theorem F64.expField_lt_of_lt_ofNat {n : Nat} {x : F64} (hn : n < 2 ^ 53) (hx : F64.lt zeroF x = true)
    (hlt : F64.lt x (F64.ofNat n) = true) : F64.expField x < 2047 := by
  obtain ⟨-, -, hxpos⟩ := F64.lt_iff.mp hx
  obtain ⟨-, -, hkey⟩ := F64.lt_iff.mp hlt
  rw [F64.key_zero] at hxpos
  rcases n.eq_zero_or_pos with rfl | hpos
  · exact absurd (hxpos.trans hkey) (by decide)
  · have hbound := natMag_lt_infMag hpos hn
    have hmag := F64.mag_eq x
    rw [F64.key_ofNat hpos hn, F64.key_of_pos hxpos] at hkey
    rw [F64.infMag] at hbound
    omega

end Sys2Proof.Machine
end

section
/-! ToCode (43_dac.md R158), path by path. -/

namespace Sys2Proof.Machine

theorem toCode_of_isNaN {x : F64} (h : F64.isNaN x = true) : toCode x = 0#18 := if_pos h

theorem toCode_of_le_zero {x : F64} (h : F64.le x zeroF = true) : toCode x = 0#18 := by
  obtain ⟨hnan, -, -⟩ := F64.le_iff.mp h
  rw [toCode, hnan, if_neg Bool.false_ne_true, if_pos h]

theorem toCode_of_dacMaxF_le {x : F64} (h : F64.le dacMaxF x = true) : toCode x = 0x3FFFF#18 := by
  have hx : F64.lt zeroF x = true := F64.lt_of_lt_of_le (F64.zeroF_lt_ofNat (by decide) (by decide)) h
  obtain ⟨-, hnan, -⟩ := F64.lt_iff.mp hx
  rw [toCode, hnan, if_neg Bool.false_ne_true, if_neg (F64.not_le_of_lt hx), if_pos h]
  rfl

theorem toCode_of_between {x : F64} (hx : F64.lt zeroF x = true) (hlt : F64.lt x dacMaxF = true) :
    toCode x = BitVec.ofNat 18 (F64.truncNat x) := by
  obtain ⟨-, hnan, -⟩ := F64.lt_iff.mp hx
  rw [toCode, hnan, if_neg Bool.false_ne_true, if_neg (F64.not_le_of_lt hx), if_neg (F64.not_le_of_lt hlt)]

/-- Between the ends the integer part fits 18 bits, so the code is that integer. -/
theorem toNat_toCode {x : F64} (hx : F64.lt zeroF x = true) (hlt : F64.lt x dacMaxF = true) :
    (toCode x).toNat = F64.truncNat x := by
  have hfin := F64.expField_lt_of_lt_ofNat (by decide) hx hlt
  have htrunc : F64.truncNat x < dacMax := (F64.lt_ofNat_iff (by decide) hx hfin).mp hlt
  rw [toCode_of_between hx hlt, BitVec.toNat_ofNat]
  exact Nat.mod_eq_of_lt (htrunc.trans (by decide))

/-- Settles O40: one clause per path of ToCode; between the ends, the integer part is the largest whole number not above the value,
so the next one is above it. -/
theorem toCodeSaturatesAndTruncates : Obligations.ToCodeSaturatesAndTruncates := by
  unfold Obligations.ToCodeSaturatesAndTruncates
  refine fun x => ⟨toCode_of_isNaN, toCode_of_le_zero, toCode_of_dacMaxF_le, fun hx hlt => ?between⟩
  case between =>
    have hfin := F64.expField_lt_of_lt_ofNat (by decide) hx hlt
    have hcode : (toCode x).toNat < 2 ^ 18 := (toCode x).isLt
    rw [F64.ofNat_le_iff (by omega) hx hfin, F64.lt_ofNat_iff (by omega) hx hfin, toNat_toCode hx hlt]
    exact ⟨le_rfl, Nat.lt_succ_self _⟩

end Sys2Proof.Machine
end

section
/-! PID_UPDATE (45_pid.md R166 to R169): the gate on the accumulator, the derivative, and the command as one step of the channel's
controller. -/

namespace Sys2Proof.Machine

open Safety

/-- R48, R81: a command whose body answers ends completed. -/
theorem runCommand_completed {i : Instr} {body : Cmd Results} {s : State} {r : Results} {b : Block}
    (h : body s.toBlock = .ok r b) : runCommand i body s = .next (completed s b r) := by
  rw [runCommand_next, h, settle_ok]
  rfl

/-! The controller, case by case. -/

section Controller
variable {p : Pid} {lo li : F64} (input dt : F64)

/-- R167: with no previous output the accumulator does not advance. -/
theorem Pid.accumulated_of_none (h : p.lastOutput = none) : p.accumulated input dt = p.integral := by
  simp only [Pid.accumulated, Pid.gateOpen, h, Bool.false_eq_true, if_false]

/-- R167: after an output it advances exactly when that output is strictly inside the bounds. -/
theorem Pid.accumulated_of_some (h : p.lastOutput = some lo) :
    p.accumulated input dt =
      if F64.lt p.outputMin lo = true ∧ F64.lt lo p.outputMax = true then
        F64.add p.integral (F64.mul (p.error input) dt) else p.integral := by
  simp only [Pid.accumulated, Pid.gateOpen, h, Bool.and_eq_true]

/-- R168: the first update has no derivative. -/
theorem Pid.derivative_of_none (h : p.lastInput = none) : p.derivative input dt = zeroF := by
  simp only [Pid.derivative, h]

/-- R168: later ones take it from the input. -/
theorem Pid.derivative_of_some (h : p.lastInput = some li) :
    p.derivative input dt = F64.div (F64.mul p.kd (F64.sub input li)) dt := by
  simp only [Pid.derivative, h]

end Controller

/-! The command. -/

theorem run_pidStep (ch : Ch) (input dt : F64) (b : Block) :
    pidStep ch input dt b = .ok ((b.ch.get ch).pid.output input dt)
      (b.updCh ch (fun c => { c with pid := (b.ch.get ch).pid.step input dt })) := by
  rw [pidStep, Cmd.run_bind_ok (Cmd.run_lookCh ch _ b), Cmd.run_bind_ok (Cmd.run_updateCh ch _ b), Cmd.run_pure]

theorem run_bodyPidUpdate (ch : Ch) (b : Block) :
    bodyPidUpdate ch b = .ok (resultA ((b.ch.get ch).pid.output b.opA b.opB))
      (b.updCh ch (fun c => { c with pid := (b.ch.get ch).pid.step b.opA b.opB })) := by
  rw [bodyPidUpdate, Cmd.run_bind_ok (Cmd.run_look _ b), Cmd.run_bind_ok (Cmd.run_look _ b),
    Cmd.run_bind_ok (run_pidStep ch b.opA b.opB b), Cmd.run_pure]

theorem exec_pidUpdate (ch : Ch) (s : State) :
    exec (.pidUpdate ch) s = .next (completed s
      (s.toBlock.updCh ch (fun c => { c with pid := (s.ch.get ch).pid.step s.opA s.opB }))
      (resultA ((s.ch.get ch).pid.output s.opA s.opB))) :=
  runCommand_completed (run_bodyPidUpdate ch s.toBlock)

/-- Settles O42: the command is one step of the controller, whose accumulator and derivative are those of the claim by a case
split on the previous output and on the previous input; the clamps and the sum are then the step's own. -/
theorem pidUpdateCompletes : Obligations.PidUpdateCompletes := by
  unfold Obligations.PidUpdateCompletes
  intro s ch p error advanced integral deriv out
  have hadvanced : p.accumulated s.opA s.opB = advanced := by
    cases hlast : p.lastOutput with
    | none => simp only [advanced, hlast, Pid.accumulated_of_none _ _ hlast]
    | some lo => simp only [advanced, hlast, Pid.accumulated_of_some _ _ hlast, error, Pid.error]
  have hderiv : p.derivative s.opA s.opB = deriv := by
    cases hlast : p.lastInput with
    | none => simp only [deriv, hlast, Pid.derivative_of_none _ _ hlast]
    | some li => simp only [deriv, hlast, Pid.derivative_of_some _ _ hlast]
  have hintegral : p.nextIntegral s.opA s.opB = integral := by rw [Pid.nextIntegral, hadvanced]
  have hout : p.output s.opA s.opB = out := by rw [Pid.output, hintegral, hderiv, Pid.error]
  have hstep : p.step s.opA s.opB =
      { p with integral := integral, lastInput := some s.opA, lastOutput := some out } := by
    rw [Pid.step, hintegral, hout]
  rw [exec_pidUpdate, hstep, hout]
  rfl

end Sys2Proof.Machine
end

section
/-! The temperature of a channel (47_channel.md R190, R196; 44_steinhart_hart.md R160, R161): the model's conversions are those the
claims name. -/

namespace Sys2Proof.Machine

open Safety

/-- R190. -/
theorem codeToVolts_eq_voltsOf (p : Params) (k : AdcCal) (code : AdcCode) : codeToVolts p k code = voltsOf p k code := rfl

/-- R161: the two tests, on the sensor's resistance and on the temperature, as one. -/
theorem shTemp_eq_kelvinOf (p : ShParams) (r : F64) : shTemp p r = kelvinOf p r := by
  simp only [shTemp, ← ite_and, Bool.and_eq_true, and_assoc]
  rfl

/-- R196: the sample and the calibration decide whether there is anything to convert. -/
theorem Channel.temp_eq_celsiusOf (p : Params) (c : Channel) : c.temp p = celsiusOf p c := by
  cases hdata : c.adcData <;> cases hcal : c.cal <;>
    simp only [Channel.temp, celsiusOf, hdata, hcal, shTemp_eq_kelvinOf, codeToVolts_eq_voltsOf]

theorem Block.chTemp_eq_celsiusOf (b : Block) (ch : Ch) : b.chTemp ch = celsiusOf b.cfg (b.ch.get ch) :=
  Channel.temp_eq_celsiusOf b.cfg (b.ch.get ch)

end Sys2Proof.Machine
end

section
/-! The biquad filters (46_iir.md R177 to R185): one step of a channel's filter, its coefficients and target, and the tick of the
filter matrix, slot by slot. -/

namespace Sys2Proof.Machine

open Safety

/-! One step of a filter. -/

/-- R177, R178: the dot product of the shifted history, written out left to right. -/
theorem Iir.output_eq (f : Iir) (x0 : F64) :
    f.output x0 = F64.add (F64.add (F64.add (F64.add (F64.mul (F64.sub f.target x0) f.ba.e0) (F64.mul f.xy.e0 f.ba.e1))
      (F64.mul f.xy.e1 f.ba.e2)) (F64.mul f.xy.e2 f.ba.e3)) (F64.mul f.xy.e3 f.ba.e4) := rfl

/-- R177, R178: the history after a step, with the output in slot 2. -/
theorem Iir.step_eq (f : Iir) (x0 : F64) :
    f.step x0 = { f with xy := ⟨F64.sub f.target x0, f.xy.e0, f.output x0, f.xy.e2, f.xy.e3⟩ } := rfl

/-! The channel's filter. -/

theorem run_iirStep (ch : Ch) (x0 : F64) (b : Block) :
    iirStep ch x0 b = .ok ((b.ch.get ch).iir.output x0)
      (b.updCh ch (fun c => { c with iir := (b.ch.get ch).iir.step x0 })) := by
  rw [iirStep, Cmd.run_bind_ok (Cmd.run_lookCh ch _ b), Cmd.run_bind_ok (Cmd.run_updateCh ch _ b), Cmd.run_pure]

theorem run_bodyIirTick (ch : Ch) (b : Block) :
    bodyIirTick ch b = .ok (resultA ((b.ch.get ch).iir.output b.opA))
      (b.updCh ch (fun c => { c with iir := (b.ch.get ch).iir.step b.opA })) := by
  rw [bodyIirTick, Cmd.run_bind_ok (Cmd.run_look _ b), Cmd.run_bind_ok (run_iirStep ch b.opA b), Cmd.run_pure]

theorem run_bodyIirSetCoeff (ch : Ch) (i : Coeff) (b : Block) :
    bodyIirSetCoeff ch i b = .ok noResult
      (b.updCh ch (fun c => { c with iir := { c.iir with ba := c.iir.ba.set i b.opA } })) := by
  rw [bodyIirSetCoeff, Cmd.run_bind_ok (Cmd.run_look _ b), Cmd.run_bind_ok (Cmd.run_updateCh ch _ b), Cmd.run_pure]

theorem run_bodyIirSetTarget (ch : Ch) (b : Block) :
    bodyIirSetTarget ch b = .ok noResult (b.updCh ch (fun c => { c with iir := { c.iir with target := b.opA } })) := by
  rw [bodyIirSetTarget, Cmd.run_bind_ok (Cmd.run_look _ b), Cmd.run_bind_ok (Cmd.run_updateCh ch _ b), Cmd.run_pure]

theorem exec_iirTick (ch : Ch) (s : State) :
    exec (.iirTick ch) s = .next (completed s
      (s.toBlock.updCh ch (fun c => { c with iir := (s.ch.get ch).iir.step s.opA }))
      (resultA ((s.ch.get ch).iir.output s.opA))) :=
  runCommand_completed (run_bodyIirTick ch s.toBlock)

theorem exec_iirSetCoeff (ch : Ch) (i : Coeff) (s : State) :
    exec (.iirSetCoeff ch i) s = .next (completed s
      (s.toBlock.updCh ch (fun c => { c with iir := { c.iir with ba := c.iir.ba.set i s.opA } })) noResult) :=
  runCommand_completed (run_bodyIirSetCoeff ch i s.toBlock)

theorem exec_iirSetTarget (ch : Ch) (s : State) :
    exec (.iirSetTarget ch) s = .next (completed s
      (s.toBlock.updCh ch (fun c => { c with iir := { c.iir with target := s.opA } })) noResult) :=
  runCommand_completed (run_bodyIirSetTarget ch s.toBlock)

/-- Settles O45: each command is one rewriting of the channel's filter, which the claim writes out field by field: the step by
its output's formula, the coefficient by a case split on which one is written. -/
theorem channelFilterCommandsComplete : Obligations.ChannelFilterCommandsComplete := by
  unfold Obligations.ChannelFilterCommandsComplete
  intro s ch c f x y
  refine ⟨?tick, ?coeff, exec_iirSetTarget ch s⟩
  case tick =>
    rw [exec_iirTick, Iir.step_eq, Iir.output_eq]
    rfl
  case coeff =>
    rw [exec_iirSetCoeff]
    cases c <;> rfl

/-! The matrix. -/

section Slots
variable {b : Block} {snap : PerSlot F64} {m : MtxSlot} {input target : F64}

/-- R185: with both sources present the slot's filter makes one step on them, and the slot holds its output. -/
theorem Block.tickSlot_of_some (hin : b.source snap m.inSel m.inConst = some input)
    (htgt : b.source snap m.tgtSel m.tgtConst = some target) :
    b.tickSlot snap m =
      { m with xy := (Iir.step ⟨m.ba, m.xy, target⟩ input).xy, out := Iir.output ⟨m.ba, m.xy, target⟩ input } := by
  simp only [Block.tickSlot, hin, htgt]

/-- R185: a slot whose input is absent holds. -/
theorem Block.tickSlot_of_input_none (hin : b.source snap m.inSel m.inConst = none) : b.tickSlot snap m = m := by
  simp only [Block.tickSlot, hin]

/-- R185: a slot whose target is absent holds. -/
theorem Block.tickSlot_of_target_none (htgt : b.source snap m.tgtSel m.tgtConst = none) : b.tickSlot snap m = m := by
  cases hin : b.source snap m.inSel m.inConst <;> simp only [Block.tickSlot, hin, htgt]

end Slots

/-- R184: the slot is ticked against the outputs of before the tick, of every slot and of itself. -/
theorem Block.ticked_get (b : Block) (k : Slot) :
    b.ticked.get k = b.tickSlot (b.mtx.map (·.out)) (b.mtx.get k) :=
  PerSlot.get_map _ _ k

theorem run_bodyMtxTick (b : Block) : bodyMtxTick b = .ok noResult (b.setMtx b.ticked) := by
  rw [bodyMtxTick, mtxTick, Cmd.run_bind_ok (Cmd.run_update _ b), Cmd.run_pure]

theorem exec_mtxTick (s : State) :
    exec .mtxTick s = .next (completed s (s.toBlock.setMtx s.toBlock.ticked) noResult) :=
  runCommand_completed (run_bodyMtxTick s.toBlock)

/-- Settles O46: the matrix after is every slot ticked against the outputs of before; a source's value is the claim's by a case
split on its selector, and the slot's tick then by a case split on which of its two sources is present. -/
theorem matrixTickCompletes : Obligations.MatrixTickCompletes := by
  unfold Obligations.MatrixTickCompletes
  intro s
  refine ⟨s.toBlock.ticked, exec_mtxTick s, fun k => ?slot⟩
  intro old src
  have hsource (sel : Source) (c : F64) : s.toBlock.source (s.mtx.map (·.out)) sel c = src sel c := by
    cases sel with
    | const => rfl
    | temp ch => exact Block.chTemp_eq_celsiusOf s.toBlock ch
    | filter j => exact congrArg some (PerSlot.get_map _ s.mtx j)
  rw [Block.ticked_get]
  cases hin : src old.inSel old.inConst with
  | none => exact Block.tickSlot_of_input_none ((hsource _ _).trans hin)
  | some input =>
    cases htgt : src old.tgtSel old.tgtConst with
    | none => exact Block.tickSlot_of_target_none ((hsource _ _).trans htgt)
    | some target =>
      rw [Block.tickSlot_of_some ((hsource _ _).trans hin) ((hsource _ _).trans htgt), Iir.step_eq, Iir.output_eq]

end Sys2Proof.Machine
end

section
/-! CH_CONVERT_DATA (47_channel.md R190, R191, R220): the operand as a code, and the conversion with and without a calibration. -/

namespace Sys2Proof.Machine

open Safety

/-- R215, R226: a command whose body raises an error ends failed with its code and info. -/
theorem runCommand_failed {i : Instr} {body : Cmd Results} {s : State} {e : Err} {b : Block}
    (h : body s.toBlock = .error (.raised e) b) : runCommand i body s = .next (failed s b e.code e.info) := by
  rw [runCommand_next, h, settle_raised]
  rfl

/-- R191: an operand of at most 24 bits is taken as it is. -/
theorem run_operandCode {b : Block} (h : b.opD.toNat ≤ 0xFFFFFF) : operandCode b = .ok (b.opD.setWidth 24) b := by
  rw [operandCode, Cmd.run_bind_ok (Cmd.run_look _ b), decide_eq_true h, Cmd.run_bind_ok (b' := b) (a := ()) (Cmd.run_requireLegal true b),
    Cmd.run_pure]

theorem convertCode_of_some {b : Block} {ch : Ch} {k : AdcCal} (code : AdcCode) (h : (b.ch.get ch).cal = some k) :
    convertCode ch code b = .ok (voltsOf b.cfg k code) b := by
  rw [convertCode, Cmd.run_bind_ok (Cmd.run_lookCh ch _ b), Cmd.run_bind_ok (Cmd.run_look _ b), h]
  rfl

/-- R220. -/
theorem convertCode_of_none {b : Block} {ch : Ch} (code : AdcCode) (h : (b.ch.get ch).cal = none) :
    convertCode ch code b = .error (.raised (.conversionUnavailable ch)) b := by
  rw [convertCode, Cmd.run_bind_ok (Cmd.run_lookCh ch _ b), Cmd.run_bind_ok (Cmd.run_look _ b), h]
  rfl

/-- Settles O48: the operand is a code by its bound, and the conversion is decided by a case split on the calibration. -/
theorem convertDataCompletes : Obligations.ConvertDataCompletes := by
  unfold Obligations.ConvertDataCompletes
  refine fun s ch hcode => ⟨fun k hcal => ?calibrated, fun hcal => ?uncalibrated⟩
  case calibrated =>
    refine runCommand_completed (r := resultA _) ?_
    rw [bodyChConvertData, Cmd.run_bind_ok (run_operandCode hcode), Cmd.run_bind_ok (convertCode_of_some _ hcal), Cmd.run_pure]
  case uncalibrated =>
    have hbody : bodyChConvertData ch s.toBlock = .error (.raised (.conversionUnavailable ch)) s.toBlock := by
      rw [bodyChConvertData, Cmd.run_bind_ok (run_operandCode hcode), Cmd.run_bind_error (convertCode_of_none _ hcal)]
    cases ch <;> exact runCommand_failed hbody

end Sys2Proof.Machine
end

section
/-! The calibration search against agents that settle (47_channel.md R208, R209): a pass visits the codes up to the first that is
refused, the passes go on from the best code so far, and the whole search leaves the block that `afterCalibrate` names. -/

namespace Sys2Proof.Machine

open Safety

/-! The codes of a pass, and what is visited and kept of a list of codes. -/

theorem mem_passCodes {step start c : Nat} (hs : start ≤ dacMax) (h : c ∈ passCodes step start) : start ≤ c ∧ c ≤ dacMax := by
  obtain ⟨i, hi, rfl⟩ := List.mem_range'.mp h
  have hmul : step * i ≤ dacMax - start :=
    (Nat.mul_le_mul_left step (Nat.lt_succ_iff.mp hi)).trans (Nat.mul_div_le _ _)
  omega

/-- The first code after those of a pass is past DAC_MAX. -/
theorem dacMax_lt_pass_end {step : Nat} (start : Nat) (hstep : 0 < step) :
    dacMax < start + step * ((dacMax - start) / step + 1) := by
  have := Nat.lt_mul_div_succ (dacMax - start) hstep
  omega

/-- The codes visited of a list: the accepted ones, and the first that is not. -/
def visited (ok : Nat → Bool) (cs : List Nat) : List Nat := cs.takeWhile ok ++ (cs.dropWhile ok).take 1

/-- The last accepted code of a list, else the one before it. -/
def lastAccepted (ok : Nat → Bool) (cs : List Nat) (best : Option Nat) : Option Nat := ((cs.takeWhile ok).getLast?).or best

theorem passVisits_eq (ok : Nat → Bool) (step start : Nat) : passVisits ok step start = visited ok (passCodes step start) := rfl

theorem passBest_eq (ok : Nat → Bool) (step start : Nat) (best : Option Nat) :
    passBest ok step start best = lastAccepted ok (passCodes step start) best := rfl

section Codes
variable {ok : Nat → Bool} {c : Nat} {cs : List Nat} {best : Option Nat}

theorem visited_cons_of_ok (h : ok c = true) : visited ok (c :: cs) = c :: visited ok cs := by
  simp [visited, h]

theorem visited_cons_of_not_ok (h : ok c = false) : visited ok (c :: cs) = [c] := by
  simp [visited, h]

theorem lastAccepted_cons_of_ok (h : ok c = true) : lastAccepted ok (c :: cs) best = lastAccepted ok cs (some c) := by
  simp only [lastAccepted, List.takeWhile_cons_of_pos h, List.getLast?_cons, Option.some_or]
  cases (cs.takeWhile ok).getLast? <;> rfl

theorem lastAccepted_cons_of_not_ok (h : ok c = false) : lastAccepted ok (c :: cs) best = best := by
  simp [lastAccepted, h]

/-- The last accepted code is an accepted one of the list, or the one before it. -/
theorem mem_lastAccepted {b : Nat} (h : b ∈ lastAccepted ok cs best) : (b ∈ cs ∧ ok b = true) ∨ b ∈ best := by
  rcases Option.or_eq_some_iff.mp h with h | ⟨-, h⟩
  · have hmem := List.mem_of_getLast? h
    exact .inl ⟨(List.takeWhile_sublist ok).mem hmem, List.mem_takeWhile_imp hmem⟩
  · exact .inr h

end Codes

/-- A code a search may end with: one the DAC has, accepted. -/
def GoodCode (ok : Nat → Bool) (b : Nat) : Prop := ok b = true ∧ b ≤ dacMax

/-- A search that has found no code yet. -/
theorem good_none (ok : Nat → Bool) : ∀ b ∈ (none : Option Nat), GoodCode ok b := fun _ h => nomatch h

theorem getD_le_dacMax {ok : Nat → Bool} {best : Option Nat} (h : ∀ b ∈ best, GoodCode ok b) : best.getD 0 ≤ dacMax := by
  cases best with
  | none => exact Nat.zero_le _
  | some b => exact (h b rfl).2

/-- R208: a pass ends with a good code when the one before it is. -/
theorem passBest_good {ok : Nat → Bool} {best : Option Nat} (step : Nat) (h : ∀ b ∈ best, GoodCode ok b) :
    ∀ b ∈ passBest ok step (best.getD 0) best, GoodCode ok b := by
  intro b hb
  rw [passBest_eq] at hb
  rcases mem_lastAccepted hb with ⟨hmem, hok⟩ | hbest
  · exact ⟨hok, (mem_passCodes (getD_le_dacMax h) hmem).2⟩
  · exact h b hbest

/-- R208: so does the whole search. -/
theorem searchBest_good {ok : Nat → Bool} : ∀ (k : Nat) {best : Option Nat}, (∀ b ∈ best, GoodCode ok b) →
    ∀ b ∈ searchBest ok k best, GoodCode ok b
  | 0, _, h => passBest_good 1 h
  | k + 1, _, h => searchBest_good k (passBest_good (2 ^ (k + 1)) h)

/-! One code of the search. -/

/-- The answers of a run of visits, in order. -/
def visitAnswers (vs : List Visit) : List Answer := vs.flatMap (fun v => v.dac :: v.samples)

/-- R208, R209: the visit of one code, answered as the search asks: the DAC takes it, and its samples settle within the budget. -/
def VisitAnswered (b : Block) (fb : Nat → F64) (v : Visit) : Prop :=
  v.dac.fails = false ∧ settlesAt b.cfg.calTol (fb v.code) v.samples = true ∧ mayRetry b (v.samples.length - 2)

/-- The block after samples of the feedback sampler. -/
def afterSamples (b : Block) (ch : Ch) (src : FbSource) (as rest : List Answer) : Block :=
  { b with script := rest, ports := b.ports + as.length, hist := sampleEvents ch src as ++ b.hist }

/-- The block after the visit of one code. -/
def afterVisit (b : Block) (ch : Ch) (v : Visit) (rest : List Answer) : Block :=
  afterSamples (afterDac b ch (BitVec.ofNat 18 v.code) v.dac (v.samples ++ rest)) ch .dacFb v.samples rest

/-- The block after a run of visits. -/
def afterVisits (b : Block) (ch : Ch) : List Visit → List Answer → Block
  | [], _ => b
  | v :: vs, rest => afterVisits (afterVisit b ch v (visitAnswers vs ++ rest)) ch vs rest

section Visits
variable {b : Block} {ch : Ch} {fb : Nat → F64} {rest : List Answer}

/-- R208, R209: the code sent, then its feedback. -/
theorem visit_run {β : Type} {v : Visit} (hv : VisitAnswered b fb v) (hs : b.script = v.dac :: v.samples ++ rest) (f : F64 → Cmd β) :
    (writeDac ch (BitVec.ofNat 18 v.code) >>= fun _ => stable ch .dacFb >>= f) b = f (fb v.code) (afterVisit b ch v rest) := by
  obtain ⟨hdac, hsettles, hbudget⟩ := hv
  rw [Cmd.run_bind_ok (writeDac_ok hdac hs)]
  exact Cmd.run_bind_ok (stable_settles (b := afterDac b ch (BitVec.ofNat 18 v.code) v.dac (v.samples ++ rest)) rfl hsettles hbudget) f

theorem afterVisits_append (vs us : List Visit) : ∀ b : Block, afterVisits b ch (vs ++ us) rest =
    afterVisits (afterVisits b ch vs (visitAnswers us ++ rest)) ch us rest := by
  induction vs with
  | nil => exact fun _ => rfl
  | cons v vs ih =>
    intro b
    rw [List.cons_append, afterVisits, ih, afterVisits]
    simp only [visitAnswers, List.flatMap_append, List.append_assoc]

theorem afterVisits_cfg (vs : List Visit) : ∀ b : Block, (afterVisits b ch vs rest).cfg = b.cfg := by
  induction vs with
  | nil => exact fun _ => rfl
  | cons v vs ih => exact fun b => ih _

theorem afterVisits_grant (vs : List Visit) : ∀ b : Block, (afterVisits b ch vs rest).grant = b.grant := by
  induction vs with
  | nil => exact fun _ => rfl
  | cons v vs ih => exact fun b => ih _

theorem afterVisits_script (vs : List Visit) : ∀ b : Block, b.script = visitAnswers vs ++ rest →
    (afterVisits b ch vs rest).script = rest := by
  induction vs with
  | nil => exact fun _ h => h
  | cons v vs ih => exact fun b _ => ih _ rfl

/-- Whether answers are those a visit asks for rests on nothing that visits change. -/
theorem visitAnswered_after {v : Visit} (vs : List Visit) (hv : VisitAnswered b fb v) : VisitAnswered (afterVisits b ch vs rest) fb v := by
  simpa only [VisitAnswered, mayRetry, afterVisits_cfg, afterVisits_grant] using hv

/-- A code sent after a run of visits: of the codes before it nothing is left but their answers and events. -/
theorem afterDac_afterVisits (code : DacCode) (a : Answer) (mid : List Answer) (vs : List Visit) : ∀ b : Block,
    afterDac (afterVisits b ch vs mid) ch code a rest =
      { b with script := rest, ports := b.ports + ((visitAnswers vs).length + 1)
               hist := dacEvents (b.cfg.syncIdle.get ch) ch code a ++ (visitEvents (b.cfg.syncIdle.get ch) ch vs ++ b.hist)
               sync := b.sync.set ch (some (b.cfg.syncIdle.get ch))
               ch := b.ch.set ch { b.ch.get ch with dacCode := code } } := by
  induction vs with
  | nil => exact fun _ => rfl
  | cons v vs ih =>
    intro b
    rw [afterVisits, ih]
    simp only [afterVisit, afterSamples, afterDac, visitAnswers, visitEvents, PerCh.set_set, PerCh.get_set_same, List.flatMap_cons,
      List.length_append, List.length_cons, List.append_assoc, Block.mk.injEq, true_and, and_true]
    omega

end Visits

/-! One pass. -/

/-- R208: the test of a feedback is the acceptance of its code. -/
theorem sweep_succ {ch : Ch} {w : Sampler} {target : F64} {step fuel : Nat} {best : Option DacCode} {b : Block} {v : Visit}
    {rest : List Answer} (hle : v.code ≤ dacMax) (hv : VisitAnswered b w.fb v) (hs : b.script = v.dac :: v.samples ++ rest) :
    sweep ch target step (fuel + 1) v.code best b =
      (if accepts target w.fb v.code = true then sweep ch target step fuel (v.code + step) (some (BitVec.ofNat 18 v.code))
        else pure best) (afterVisit b ch v rest) := by
  rw [sweep, if_neg (Nat.not_lt.mpr hle)]
  exact visit_run hv hs _

theorem sweep_past {ch : Ch} {target : F64} {step v : Nat} (fuel : Nat) {best : Option DacCode} {b : Block} (h : dacMax < v) :
    sweep ch target step fuel v best b = .ok best b := by
  cases fuel with
  | zero => rfl
  | succ fuel => rw [sweep, if_pos h, Cmd.run_pure]

/-- R208: a pass over n more codes up to DAC_MAX. -/
theorem sweep_visited {ch : Ch} {w : Sampler} {target : F64} {step : Nat} {rest : List Answer} :
    ∀ (n fuel c : Nat) (best : Option Nat) (vs : List Visit) (b : Block), n ≤ fuel →
      (∀ c' ∈ List.range' c n step, c' ≤ dacMax) → dacMax < c + step * n →
      vs.map (·.code) = visited (accepts target w.fb) (List.range' c n step) → (∀ v ∈ vs, VisitAnswered b w.fb v) →
      b.script = visitAnswers vs ++ rest →
      sweep ch target step fuel c (best.map (BitVec.ofNat 18)) b =
        .ok ((lastAccepted (accepts target w.fb) (List.range' c n step) best).map (BitVec.ofNat 18)) (afterVisits b ch vs rest)
  | 0, fuel, c, best, vs, b, _, _, hend, hcodes, _, _ => by
    obtain rfl : vs = [] := List.map_eq_nil_iff.mp hcodes
    exact sweep_past fuel hend
  | n + 1, fuel, c, best, vs, b, hfuel, hle, hend, hcodes, hans, hscript => by
    obtain ⟨fuel, rfl⟩ : ∃ m, fuel = m + 1 := ⟨fuel - 1, by omega⟩
    rw [List.range'_succ] at hle hcodes ⊢
    have hc : c ≤ dacMax := hle c (List.mem_cons_self ..)
    cases hok : accepts target w.fb c with
    | false =>
      rw [visited_cons_of_not_ok hok] at hcodes
      obtain ⟨v, rfl, rfl⟩ := List.map_eq_singleton_iff.mp hcodes
      rw [sweep_succ hc (hans v (List.mem_cons_self ..)) (rest := rest) (by simpa [visitAnswers] using hscript), hok,
        if_neg Bool.false_ne_true, lastAccepted_cons_of_not_ok hok]
      rfl
    | true =>
      rw [visited_cons_of_ok hok] at hcodes
      obtain ⟨v, us, rfl, rfl, hcodes⟩ := List.map_eq_cons_iff.mp hcodes
      have hv := hans v (List.mem_cons_self ..)
      have hs : b.script = v.dac :: v.samples ++ (visitAnswers us ++ rest) := by simpa [visitAnswers] using hscript
      rw [sweep_succ hc hv hs, hok, if_pos rfl, lastAccepted_cons_of_ok hok]
      refine sweep_visited n fuel (v.code + step) (some v.code) us (afterVisit b ch v (visitAnswers us ++ rest)) (by omega)
        (fun c' h => hle c' (List.mem_cons_of_mem _ h)) (by rw [Nat.mul_succ] at hend; omega) hcodes (fun u hu => ?_) rfl
      exact hans u (List.mem_cons_of_mem _ hu)

/-- R208: a pass from the best code so far. -/
theorem pass_visits {ch : Ch} {w : Sampler} {target : F64} {step : Nat} {best : Option Nat} {vs : List Visit} {b : Block}
    {rest : List Answer} (hstep : 0 < step) (hbest : ∀ c ∈ best, GoodCode (accepts target w.fb) c)
    (hcodes : vs.map (·.code) = passVisits (accepts target w.fb) step (best.getD 0)) (hans : ∀ v ∈ vs, VisitAnswered b w.fb v)
    (hscript : b.script = visitAnswers vs ++ rest) :
    sweep ch target step (dacMax / step + 1) (best.getD 0) (best.map (BitVec.ofNat 18)) b =
      .ok ((passBest (accepts target w.fb) step (best.getD 0) best).map (BitVec.ofNat 18)) (afterVisits b ch vs rest) := by
  rw [passVisits_eq] at hcodes
  rw [passBest_eq]
  exact sweep_visited _ _ _ best vs b (Nat.succ_le_succ (Nat.div_le_div_right (Nat.sub_le _ _)))
    (fun _ hc => (mem_passCodes (getD_le_dacMax hbest) hc).2) (dacMax_lt_pass_end _ hstep) hcodes hans hscript

/-! All passes. -/

theorem passStart_eq {ok : Nat → Bool} {best : Option Nat} (h : ∀ b ∈ best, GoodCode ok b) :
    passStart (best.map (BitVec.ofNat 18)) = best.getD 0 := by
  cases best with
  | none => rfl
  | some b =>
    have hb : b ≤ dacMax := (h b rfl).2
    exact Nat.mod_eq_of_lt (hb.trans_lt (by decide))

/-- R208: the passes of step sizes 2^k, ..., 2, 1. -/
theorem passes_visits {ch : Ch} {w : Sampler} {target : F64} {rest : List Answer} :
    ∀ (k : Nat) (best : Option Nat) (vs : List Visit) (b : Block), (∀ c ∈ best, GoodCode (accepts target w.fb) c) →
      vs.map (·.code) = searchVisits (accepts target w.fb) k best → (∀ v ∈ vs, VisitAnswered b w.fb v) →
      b.script = visitAnswers vs ++ rest →
      passes ch target k (best.map (BitVec.ofNat 18)) b =
        .ok ((searchBest (accepts target w.fb) k best).map (BitVec.ofNat 18)) (afterVisits b ch vs rest)
  | 0, best, vs, b, hbest, hcodes, hans, hscript => by
    rw [passes, passStart_eq hbest]
    exact pass_visits Nat.one_pos hbest hcodes hans hscript
  | k + 1, best, vs, b, hbest, hcodes, hans, hscript => by
    obtain ⟨us, ts, rfl, hus, hts⟩ := List.map_eq_append_iff.mp hcodes
    have hscript' : b.script = visitAnswers us ++ (visitAnswers ts ++ rest) := by
      rw [hscript, visitAnswers, List.flatMap_append, List.append_assoc, visitAnswers, visitAnswers]
    rw [passes, passStart_eq hbest, Cmd.run_bind_ok (pass_visits (Nat.two_pow_pos _) hbest hus
      (fun v hv => hans v (List.mem_append_left _ hv)) hscript'), afterVisits_append]
    exact passes_visits k _ ts _ (passBest_good _ hbest) hts (fun v hv => visitAnswered_after us (hans v (List.mem_append_right _ hv)))
      (afterVisits_script us b hscript')

end Sys2Proof.Machine
end

section
/-! CH_CALIBRATE_DAC (47_channel.md R208): the command against agents that settle. -/

namespace Sys2Proof.Machine

open Safety

/-- R208: what the samples of VREF are for: the target in mode VREF_BIAS, and there are none in mode FACTOR. -/
def VrefAnswered (p : Params) (w : Sampler) (as : List Answer) : Prop :=
  (p.calMode = .factor → as = []) ∧ (p.calMode = .vrefBias → settlesAt p.calTol w.vref as = true)

/-- R208: cal_failed cleared, before the search. -/
def Block.calCleared (b : Block) (ch : Ch) : Block := b.updCh ch (fun c => { c with calFailed := false })

theorem run_calCleared (b : Block) (ch : Ch) :
    updateCh ch (fun c => { c with calFailed := false }) b = .ok () (b.calCleared ch) := rfl

section Calibrate
variable {b : Block} {ch : Ch} {w : Sampler} {r : CalAnswers} {rest : List Answer}

/-- R208: the target, from VREF where the mode asks for it. -/
theorem calTarget_run (hscript : b.script = r.vref ++ rest) (hbudget : mayRetry b (r.vref.length - 2))
    (hvref : VrefAnswered b.cfg w r.vref) :
    calTarget ch b = .ok (calTargetOf b.cfg w) (afterSamples b ch .vref r.vref rest) := by
  rw [calTarget, Cmd.run_bind_ok (Cmd.run_look _ b), calTargetOf]
  cases hmode : b.cfg.calMode with
  | factor =>
    rw [hvref.1 hmode] at hscript ⊢
    rw [← show b.script = rest from hscript]
    rfl
  | vrefBias =>
    exact stable_settles hscript (hvref.2 hmode) hbudget

/-- R208: what the search's outcome makes of a record is what the claims name. -/
theorem calibrated_eq {ok : Nat → Bool} {best : Option Nat} (hbest : ∀ c ∈ best, GoodCode ok c) (hcal : best = calBest b.cfg w)
    (c : Channel) :
    ({ c with calFailed := false, dacCode := 0#18 } : Channel).calibrated b.cfg.calMode (calTargetOf b.cfg w)
      (best.map (BitVec.ofNat 18)) = calibratedRecord b.cfg w c := by
  rw [calibratedRecord, ← hcal]
  cases best with
  | none => cases b.cfg.calMode <;> rfl
  | some n =>
    have hn : (BitVec.ofNat 18 n).toNat = n := Nat.mod_eq_of_lt ((hbest n rfl).2.trans_lt (by decide))
    cases b.cfg.calMode with
    | vrefBias => 
      simp only [Option.map_some, Channel.calibrated, hn]
      rfl
    | factor =>
      cases n with
      | zero => rfl
      | succ n =>
        have hne : BitVec.ofNat 18 (n + 1) ≠ 0#18 := fun h => by
          rw [h] at hn
          exact absurd hn (by simp)
        simp only [Option.map_some, Channel.calibrated, hn, if_neg hne]
        rfl

/-- R208: the answers of a calibration, taken apart. -/
theorem fits_iff {p : Params} : r.fits p w = true ↔
    VrefAnswered p w r.vref ∧ r.visits.map (·.code) = calVisits p w ∧
    (∀ v ∈ r.visits, v.dac.fails = false ∧ settlesAt p.calTol (w.fb v.code) v.samples = true) ∧ r.zero.fails = false := by
  cases hmode : p.calMode <;>
    simp [CalAnswers.fits, VrefAnswered, hmode, and_assoc]

theorem calBest_good (p : Params) (w : Sampler) : ∀ c ∈ calBest p w, GoodCode (accepts (calTargetOf p w) w.fb) c :=
  searchBest_good p.calStartLog (good_none _)

/-- R208: the block once the samples of VREF are taken. -/
def searchStart (b : Block) (ch : Ch) (r : CalAnswers) (rest : List Answer) : Block :=
  afterSamples (b.calCleared ch) ch .vref r.vref (visitAnswers r.visits ++ r.zero :: rest)

/-- R208: the block once the codes are visited and the DAC is back at 0. -/
def searchEnd (b : Block) (ch : Ch) (r : CalAnswers) (rest : List Answer) : Block :=
  afterDac (afterVisits (searchStart b ch r rest) ch r.visits (r.zero :: rest)) ch 0#18 r.zero rest

theorem searchEnd_cfg : (searchEnd b ch r rest).cfg = b.cfg := afterVisits_cfg r.visits (searchStart b ch r rest)

/-- R208: with the outcome written, the block is the one the claims name. -/
theorem searchEnd_calibrated :
    (searchEnd b ch r rest).updCh ch
      (fun c => c.calibrated b.cfg.calMode (calTargetOf b.cfg w) ((calBest b.cfg w).map (BitVec.ofNat 18))) =
      afterCalibrate b ch w r rest := by
  rw [searchEnd, afterDac_afterVisits]
  simp [searchStart, afterSamples, afterCalibrate, Block.calCleared, Block.updCh, calibrated_eq (calBest_good b.cfg w) rfl,
    CalAnswers.all, visitAnswers, Nat.add_assoc]

/-- R208, R209: the search over answers that settle. -/
theorem calibrateDac_run (h : calibrates b w r rest) :
    calibrateDac ch b = .ok ((calBest b.cfg w).map (BitVec.ofNat 18)) (afterCalibrate b ch w r rest) := by
  obtain ⟨hfits, ⟨hbudget, hbudgets⟩, hscript⟩ := h
  obtain ⟨hvref, hcodes, hsettle, hzero⟩ := fits_iff.mp hfits
  have htarget : calTarget ch (b.calCleared ch) = .ok (calTargetOf b.cfg w) (searchStart b ch r rest) :=
    calTarget_run (b := b.calCleared ch) (by simp [Block.calCleared, hscript, CalAnswers.all, visitAnswers]) hbudget hvref
  have hstart : look (·.cfg.calStartLog) (searchStart b ch r rest) = .ok b.cfg.calStartLog (searchStart b ch r rest) := rfl
  have hans : ∀ v ∈ r.visits, VisitAnswered (searchStart b ch r rest) w.fb v := fun v hv =>
    ⟨(hsettle v hv).1, (hsettle v hv).2, hbudgets v hv⟩
  have hpasses : passes ch (calTargetOf b.cfg w) b.cfg.calStartLog none (searchStart b ch r rest) =
      .ok ((calBest b.cfg w).map (BitVec.ofNat 18)) (afterVisits (searchStart b ch r rest) ch r.visits (r.zero :: rest)) :=
    passes_visits b.cfg.calStartLog none r.visits _ (good_none _) hcodes hans rfl
  have hzeroed : writeDac ch 0#18 (afterVisits (searchStart b ch r rest) ch r.visits (r.zero :: rest)) =
      .ok () (searchEnd b ch r rest) := writeDac_ok hzero (afterVisits_script r.visits _ rfl)
  have hmode : look (·.cfg.calMode) (searchEnd b ch r rest) = .ok b.cfg.calMode (searchEnd b ch r rest) := by
    rw [Cmd.run_look, searchEnd_cfg]
  rw [calibrateDac, Cmd.run_bind_ok (run_calCleared b ch), Cmd.run_bind_ok htarget, Cmd.run_bind_ok hstart,
    Cmd.run_bind_ok hpasses, Cmd.run_bind_ok hzeroed, Cmd.run_bind_ok hmode, Cmd.run_bind_ok (Cmd.run_updateCh ch _ _),
    Cmd.run_pure, searchEnd_calibrated]

end Calibrate

end Sys2Proof.Machine
end

section
/-! The calibration search whatever the agents answer (47_channel.md R208; 60_exceptions.md R216, R219, R222): until its last step it
changes no more than the DAC's code of the block's state, and it breaks off only with an error of that DAC, the sampler or loop
STAB. -/

namespace Sys2Proof.Machine

open Safety

/-- Of the block, channel ch's output may have changed, and what the port and the history hold. -/
def Searched (ch : Ch) (b c : Block) : Prop :=
  ∃ script ports hist sync code, c =
    { b with script := script, ports := ports, hist := hist, sync := sync, ch := b.ch.set ch { b.ch.get ch with dacCode := code } }

/-- R208, R215: the errors of a calibration: Transport of the channel's DAC or of the sampler, RetriesExhausted of STAB. -/
def calErrors (ch : Ch) : List (BitVec 8 × BitVec 32) := [(1#8, (Port.dac ch).info), (1#8, 3#32), (5#8, 5#32)]

/-- However x ends, it is a part of the search: it has changed no more than that, and stops only as listed. -/
abbrev Cmd.Searches {α : Type} (ch : Ch) (x : Cmd α) : Prop := x.Within (Searched ch) (fun _ => Stop.among (calErrors ch))

namespace Searched

variable {ch : Ch} {a b c : Block}

theorem refl (b : Block) : Searched ch b b :=
  ⟨b.script, b.ports, b.hist, b.sync, (b.ch.get ch).dacCode, by rw [PerCh.set_get]⟩

theorem trans (h : Searched ch a b) (k : Searched ch b c) : Searched ch a c := by
  obtain ⟨_, _, _, _, _, rfl⟩ := h
  obtain ⟨script, ports, hist, sync, code, rfl⟩ := k
  exact ⟨script, ports, hist, sync, code, by simp only [PerCh.set_set, PerCh.get_set_same]⟩

/-- Port and history alone. -/
theorem of_port (b : Block) (script : List Answer) (ports : Nat) (hist : List Event) (sync : PerCh (Option Level)) :
    Searched ch b { b with script := script, ports := ports, hist := hist, sync := sync } :=
  ⟨script, ports, hist, sync, (b.ch.get ch).dacCode, by rw [PerCh.set_get]⟩

theorem cfg (h : Searched ch b c) : c.cfg = b.cfg := by
  obtain ⟨_, _, _, _, _, rfl⟩ := h
  rfl

end Searched

theorem frame_searched (ch : Ch) : Cmd.Frame (Searched ch) (fun _ => Stop.among (calErrors ch)) :=
  ⟨Searched.refl, Searched.trans, fun _ h => h⟩

namespace Cmd.Searches

variable {α β : Type} {ch : Ch}

theorem pure (a : α) : (Pure.pure a : Cmd α).Searches ch := Cmd.Within.pure (frame_searched ch) a

theorem look (f : Block → α) : (Machine.look f).Searches ch := Cmd.Within.look (frame_searched ch) f

theorem bind {x : Cmd α} {f : α → Cmd β} (hx : x.Searches ch) (hf : ∀ a, (f a).Searches ch) : (x >>= f).Searches ch :=
  Cmd.Within.bind (frame_searched ch) hx hf

/-- R155, R156. -/
theorem writeDac (v : DacCode) : (writeDac ch v).Searches ch := by
  intro b
  rw [run_writeDac]
  cases b.nextAnswer.fails with
  | false => exact ⟨_, _, _, _, v, rfl⟩
  | true => exact ⟨Searched.of_port b _ _ _ _, List.mem_cons_self ..⟩

theorem fbSample (src : FbSource) : (fbSample ch src).Searches ch := by
  intro b
  rw [run_fbSample]
  cases b.nextAnswer.fails with
  | false => exact Searched.of_port b _ _ _ _
  | true => exact ⟨Searched.of_port b _ _ _ _, List.mem_cons_of_mem _ (List.mem_cons_self ..)⟩

/-- R209. -/
theorem stable (src : FbSource) : (stable ch src).Searches ch := by
  refine bind (fbSample src) (fun a => Cmd.Within.retryLoop (frame_searched ch) (fun v => ?turn) ?exhausted
    (fun _ _ => trivial) (fun _ _ h => by rw [h.cfg]))
  case turn =>
    refine bind (fbSample src) (fun b => bind (look _) (fun tol => ?_))
    cases F64.lt (F64.abs (F64.sub b v)) tol <;> exact Searches.pure _
  case exhausted =>
    exact fun _ _ _ => List.mem_cons_of_mem _ (List.mem_cons_of_mem _ (List.mem_cons_self ..))

theorem calTarget : (calTarget ch).Searches ch := by
  refine bind (look _) (fun mode => ?_)
  cases mode with
  | factor => exact look _
  | vrefBias => exact stable .vref

theorem sweep (target : F64) (step : Nat) : ∀ fuel v best, (sweep ch target step fuel v best).Searches ch
  | 0, _, _ => Searches.pure _
  | fuel + 1, v, best => by
    rw [Machine.sweep]
    by_cases hv : dacMax < v
    · rw [if_pos hv]
      exact Searches.pure _
    · rw [if_neg hv]
      refine bind (writeDac _) (fun _ => bind (stable _) (fun fb => ?_))
      cases F64.le zeroF (F64.sub target fb) with
      | false => exact Searches.pure _
      | true => exact sweep target step fuel _ _

theorem passes (target : F64) : ∀ k best, (passes ch target k best).Searches ch
  | 0, _ => sweep target _ _ _ _
  | k + 1, _ => bind (sweep target _ _ _ _) (fun _ => passes target k _)

end Cmd.Searches

/-- R208: how a calibration whose search began on b ends: the outcome written to what the search has left, or broken off in the
search. -/
def CalEnd (ch : Ch) (b : Block) : EStateM.Result Stop Block (Option DacCode) → Prop
  | .ok best t => ∃ (c : Block) (target : F64),
      Searched ch b c ∧ t = c.updCh ch (fun x => x.calibrated c.cfg.calMode target best)
  | .error s t => Searched ch b t ∧ s.among (calErrors ch)

/-- From whatever a search begun on b has left, x brings it to such an end. -/
def CalRuns (ch : Ch) (b : Block) (x : Cmd (Option DacCode)) : Prop := ∀ t, Searched ch b t → CalEnd ch b (x t)

theorem CalRuns.bind {α : Type} {ch : Ch} {b : Block} {x : Cmd α} {f : α → Cmd (Option DacCode)} (hx : x.Searches ch)
    (hf : ∀ a, CalRuns ch b (f a)) : CalRuns ch b (x >>= f) := by
  intro t ht
  have hend := hx t
  rw [Cmd.run_bind]
  cases hxt : x t with
  | ok a c =>
    rw [hxt] at hend
    exact hf a c (ht.trans hend)
  | error s c =>
    rw [hxt] at hend
    exact ⟨ht.trans hend.1, hend.2⟩

/-- R208: the record cleared, the search, and the outcome. -/
theorem calibrateDac_ends (ch : Ch) (b : Block) :
    CalEnd ch (b.calCleared ch) (calibrateDac ch b) := by
  have hsearch : ∀ target best, CalRuns ch (b.calCleared ch)
      (writeDac ch 0#18 >>= fun _ => look (·.cfg.calMode) >>= fun mode =>
        updateCh ch (fun c => c.calibrated mode target best) >>= fun _ => pure best) :=
    fun target best => CalRuns.bind (Cmd.Searches.writeDac _) (fun _ t ht => ⟨t, target, ht, rfl⟩)
  rw [calibrateDac, Cmd.run_bind_ok (run_calCleared b ch)]
  exact CalRuns.bind Cmd.Searches.calTarget (fun target => CalRuns.bind (Cmd.Searches.look _) (fun k =>
    CalRuns.bind (Cmd.Searches.passes target k _) (hsearch target))) _ (Searched.refl _)

end Sys2Proof.Machine
end

section
/-! CH_CALIBRATE_DAC as a command (47_channel.md R208): its run against agents that settle, every way it can break off, and the code
it reports when the feedback never falls as the code rises. -/

namespace Sys2Proof.Machine

open Safety

theorem exec_chCalibrateDac (ch : Ch) (s : State) :
    exec (.chCalibrateDac ch) s = .next (settle (.chCalibrateDac ch) s (bodyChCalibrateDac ch s.toBlock)) := rfl

theorem bodyChCalibrateDac_ok {ch : Ch} {b b' : Block} {best : Option DacCode} (h : calibrateDac ch b = .ok best b') :
    bodyChCalibrateDac ch b = .ok { rD := best.map (·.setWidth 32) } b' := by
  rw [bodyChCalibrateDac, Cmd.run_bind_ok h, Cmd.run_pure]

theorem bodyChCalibrateDac_error {ch : Ch} {b b' : Block} {e : Stop} (h : calibrateDac ch b = .error e b') :
    bodyChCalibrateDac ch b = .error e b' := by
  rw [bodyChCalibrateDac, Cmd.run_bind_error h]

/-- A good code is the same number in 18 bits and in a result register's 32. -/
theorem map_setWidth_of_good {ok : Nat → Bool} {best : Option Nat} (h : ∀ c ∈ best, GoodCode ok c) :
    (best.map (BitVec.ofNat 18)).map (·.setWidth 32) = best.map (BitVec.ofNat 32) := by
  cases best with
  | none => rfl
  | some n =>
    have hn : n < 2 ^ 18 := (h n rfl).2.trans_lt (by decide)
    refine congrArg some (BitVec.eq_of_toNat_eq ?_)
    simp only [BitVec.toNat_setWidth, BitVec.toNat_ofNat, Nat.mod_eq_of_lt hn]

/-- R208: the command against agents that settle. -/
theorem chCalibrateDac_completed {s : State} {ch : Ch} {w : Sampler} {r : CalAnswers} {rest : List Answer}
    (h : calibrates s.toBlock w r rest) :
    exec (.chCalibrateDac ch) s = .next (completed s (afterCalibrate s.toBlock ch w r rest)
      { rD := (calBest s.cfg w).map (BitVec.ofNat 32) }) := by
  rw [← map_setWidth_of_good (calBest_good s.cfg w)]
  exact runCommand_completed (bodyChCalibrateDac_ok (calibrateDac_run h))

/-- R222: what a calibration that breaks off leaves of the channel's record. -/
theorem searched_cleared {ch : Ch} {b c : Block} (h : Searched ch (b.calCleared ch) c) :
    (c.ch.get ch).vrefMeas = (b.ch.get ch).vrefMeas ∧ (c.ch.get ch).dacFs = (b.ch.get ch).dacFs ∧
      (c.ch.get ch).calFailed = false := by
  obtain ⟨_, _, _, _, _, rfl⟩ := h
  simp only [Block.calCleared, Block.updCh, PerCh.get_set_same, and_self]

/-- Settles O55: against agents that settle the passes visit the codes the claim lists one after the other; and whatever they answer,
a calibration that does not end well has broken off in the search, before its outcome is written. -/
theorem calibrateDacCompletes : Obligations.CalibrateDacCompletes := by
  unfold Obligations.CalibrateDacCompletes
  refine ⟨fun s ch w r rest h => chCalibrateDac_completed h, fun s t ch hexec hbad => ?anyAnswers⟩
  case anyAnswers =>
    rw [exec_chCalibrateDac] at hexec
    obtain rfl : settle (.chCalibrateDac ch) s (bodyChCalibrateDac ch s.toBlock) = t := by injection hexec
    have hend := calibrateDac_ends ch s.toBlock
    match hrun : calibrateDac ch s.toBlock with
    | .ok best b =>
      rw [bodyChCalibrateDac_ok hrun, settle_ok] at hbad
      exact absurd hbad (by simp)
    | .error (.raised e) b =>
      rw [hrun] at hend
      obtain ⟨hsearched, herror⟩ := hend
      obtain ⟨hvref, hfs, hfailed⟩ := searched_cleared hsearched
      rw [bodyChCalibrateDac_error hrun, settle_raised]
      refine ⟨hvref, hfs, hfailed, fun _ => ⟨e.info, rfl, ?_⟩⟩
      cases ch <;> exact herror
    | .error .paused b =>
      rw [hrun] at hend
      obtain ⟨hvref, hfs, hfailed⟩ := searched_cleared hend.1
      rw [bodyChCalibrateDac_error hrun, settle_paused]
      exact ⟨hvref, hfs, hfailed, fun h => nomatch h⟩

/-! The largest accepted code. -/

/-- Over n codes that start at s and hold an accepted v with no refused code below it, the last accepted one is not below v. -/
theorem exists_lastAccepted_ge {ok : Nat → Bool} {v : Nat} : ∀ (n s : Nat) (best : Option Nat), s ≤ v → v < s + n →
    (∀ u, s ≤ u → u ≤ v → ok u = true) → ∃ b ∈ lastAccepted ok (List.range' s n 1) best, v ≤ b
  | 0, s, _, hsv, hvn, _ => absurd hvn (Nat.not_lt.mpr hsv)
  | n + 1, s, best, hsv, hvn, hok => by
    rw [List.range'_succ, lastAccepted_cons_of_ok (hok s (Nat.le_refl s) hsv)]
    rcases Nat.eq_or_lt_of_le hsv with rfl | hlt
    · cases hlast : lastAccepted ok (List.range' (s + 1) n 1) (some s) with
      | none => simp [lastAccepted] at hlast
      | some b =>
        rcases mem_lastAccepted hlast with ⟨hmem, -⟩ | hb
        · obtain ⟨i, -, rfl⟩ := List.mem_range'.mp hmem
          exact ⟨_, rfl, by omega⟩
        · exact ⟨b, rfl, (Option.some.inj hb).le⟩
    · exact exists_lastAccepted_ge n (s + 1) (some s) hlt (by omega) (fun u hu => hok u (by omega))

/-- No code above a refused one is accepted. -/
def NoneAboveRefused (ok : Nat → Bool) : Prop := ∀ u v : Nat, u ≤ v → v ≤ dacMax → ok v = true → ok u = true

/-- R208: whatever the step sizes before, the last pass, by single steps, ends at or above every accepted code. -/
theorem exists_searchBest_ge {ok : Nat → Bool} (hfall : NoneAboveRefused ok) {v : Nat} (hv : GoodCode ok v) :
    ∀ (k : Nat) {best : Option Nat}, (∀ b ∈ best, GoodCode ok b) → ∃ b ∈ searchBest ok k best, v ≤ b
  | k + 1, _, hbest => exists_searchBest_ge hfall hv k (passBest_good _ hbest)
  | 0, best, hbest => by
    have htop : GoodCode ok (max v (best.getD 0)) := by
      cases hb : best with
      | none => simpa using hv
      | some b =>
        rcases max_choice v b with h | h
        · simpa only [Option.getD_some, h] using hv
        · simpa only [Option.getD_some, h] using hbest b hb
    obtain ⟨b, hb, hle⟩ := exists_lastAccepted_ge ((dacMax - best.getD 0) / 1 + 1) (best.getD 0) best
      (le_max_right v _) (by have := htop.2; omega) (fun u _ hu => hfall u _ hu htop.2 htop.1)
    rw [searchBest, passBest_eq]
    exact ⟨b, hb, (le_max_left ..).trans hle⟩

/-- R208: with code 0 refused the search finds none. -/
theorem searchBest_eq_none {ok : Nat → Bool} (hfall : NoneAboveRefused ok) (h0 : ¬ ok 0 = true) (k : Nat) : searchBest ok k none = none := by
  refine Option.eq_none_iff_forall_not_mem.mpr (fun b hb => h0 ?_)
  obtain ⟨hok, hle⟩ := searchBest_good k (good_none ok) b hb
  exact hfall 0 b (Nat.zero_le b) hle hok

/-- R208: a search that finds none sets cal_failed. -/
theorem afterCalibrate_calFailed {b : Block} (ch : Ch) {w : Sampler} (r : CalAnswers) (rest : List Answer)
    (h : calBest b.cfg w = none) : ((afterCalibrate b ch w r rest).ch.get ch).calFailed = true := by
  simp only [afterCalibrate, PerCh.get_set_same, calibratedRecord, h]

/-- Settles O56: the command reports the search's best code, a good one, and the last pass leaves no accepted code above it. -/
theorem calibrationSearchFindsLargest : Obligations.CalibrationSearchFindsLargest := by
  unfold Obligations.CalibrationSearchFindsLargest
  intro s ch w r rest h ok hok
  have hfall : NoneAboveRefused (accepts (calTargetOf s.cfg w) w.fb) := hok
  refine ⟨_, chCalibrateDac_completed h, rfl, rfl, fun h0 => ?refused, fun h0 => ?accepted⟩
  case refused =>
    have hnone : calBest s.cfg w = none := searchBest_eq_none hfall h0 _
    exact ⟨congrArg (Option.map (BitVec.ofNat 32)) hnone, afterCalibrate_calFailed ch r rest hnone⟩
  case accepted =>
    obtain ⟨b, hb, -⟩ := exists_searchBest_ge hfall ⟨h0, Nat.zero_le _⟩ s.cfg.calStartLog (good_none _)
    have hbest : calBest s.cfg w = some b := hb
    obtain ⟨hgood, hle⟩ := calBest_good s.cfg w b hbest
    refine ⟨b, congrArg (Option.map (BitVec.ofNat 32)) hbest, hle, hgood, fun v hv hvok => ?_⟩
    obtain ⟨b', hb', hvb⟩ := exists_searchBest_ge hfall ⟨hvok, hv⟩ s.cfg.calStartLog (good_none _)
    rwa [Option.mem_unique hb hb']

end Sys2Proof.Machine
end

section
/-! What the parts of BLOCK_INIT leave alone whatever the agents answer (47_channel.md R214; 60_exceptions.md R222): ADC_INIT the
channels' outputs, and what follows it all that ADC_INIT has done. -/

namespace Sys2Proof.Machine

open Safety

/-- R64: a frame stays within what the chip-select and the transfers stay within. -/
theorem Cmd.Within.adcFrame {R : Block → Block → Prop} {E : Block → Stop → Prop} (hF : Cmd.Frame R E)
    (hpin : ∀ b l, R b (b.drive .nssAdc l)) (hxfer : ∀ out, (spiXfer .adc out).Within R E) (parts : List (List Byte)) :
    (Machine.adcFrame parts).Within R E := by
  have hparts : ∀ parts : List (List Byte), (adcParts parts).Within R E := by
    intro parts
    induction parts with
    | nil => exact Cmd.Within.pure hF _
    | cons out parts ih =>
      exact Cmd.Within.bind hF (hxfer out) (fun _ => Cmd.Within.bind hF ih (fun _ => Cmd.Within.pure hF _))
  have hset : ∀ l, (pinSet .nssAdc l).Within R E := fun l b => hpin b l
  refine Cmd.Within.bind hF (hset .low) (fun _ => Cmd.Within.bind hF ?released (fun _ =>
    Cmd.Within.bind hF (hset .high) (fun _ => Cmd.Within.pure hF _)))
  case released =>
    intro b
    have hb := hparts parts b
    rw [Cmd.run_onStop]
    cases hrun : adcParts parts b with
    | ok inns c => rw [hrun] at hb; exact hb
    | error e c => rw [hrun] at hb; exact ⟨hF.trans hb.1 (hpin c .high), hb.2⟩

/-! ADC_INIT and the channels' outputs. -/

/-- The sync pins are as they were, and of a channel's record all but the calibration. -/
structure OutputsKept (b c : Block) : Prop where
  cfg : c.cfg = b.cfg
  sync : c.sync = b.sync
  ch : ∀ i, ∃ cal, c.ch.get i = { b.ch.get i with cal := cal }

namespace OutputsKept

variable {a b c : Block}

/-- Of a change that leaves the channels alone. -/
theorem of_ch (hcfg : c.cfg = b.cfg) (hsync : c.sync = b.sync) (hch : c.ch = b.ch) : OutputsKept b c :=
  ⟨hcfg, hsync, fun i => ⟨(b.ch.get i).cal, by rw [hch]⟩⟩

theorem trans (h : OutputsKept a b) (k : OutputsKept b c) : OutputsKept a c := by
  refine ⟨k.cfg.trans h.cfg, k.sync.trans h.sync, fun i => ?_⟩
  obtain ⟨_, hb⟩ := h.ch i
  obtain ⟨cal, hc⟩ := k.ch i
  exact ⟨cal, by rw [hc, hb]⟩

theorem capture (b : Block) (i : Ch) (k : AdcCal) : OutputsKept b (b.updCh i (Channel.captureCal k)) := by
  refine ⟨rfl, rfl, fun j => ?_⟩
  rw [Block.updCh_ch, PerCh.get_set]
  by_cases hj : j = i
  · subst hj
    rw [if_pos rfl, captureCal_eq]
    exact ⟨_, rfl⟩
  · rw [if_neg hj]
    exact ⟨_, rfl⟩

theorem reads : Cmd.Reads OutputsKept (fun _ _ => True) := by
  have hF : Cmd.Frame OutputsKept (fun _ _ => True) := ⟨fun _ => of_ch rfl rfl rfl, trans, fun _ _ => trivial⟩
  refine ⟨hF, fun _ _ _ _ => trivial, fun _ _ => trivial, fun _ _ h => by rw [h.cfg],
    Cmd.Within.adcFrame hF (fun _ _ => of_ch rfl rfl rfl) (fun out b => ?transfer), fun _ => of_ch rfl rfl rfl⟩
  case transfer =>
    rw [run_spiXfer]
    cases b.nextAnswer.fails
    · exact of_ch rfl rfl rfl
    · exact ⟨of_ch rfl rfl rfl, trivial⟩

end OutputsKept

theorem adcInit_keeps_outputs : adcInit.Within OutputsKept (fun _ _ => True) :=
  OutputsKept.reads.within_adcInit (fun _ => .of_ch rfl rfl rfl) (fun _ _ => .of_ch rfl rfl rfl) (fun _ => .of_ch rfl rfl rfl)
    (fun _ _ _ => .of_ch rfl rfl rfl) OutputsKept.capture (fun _ _ => .of_ch rfl rfl rfl)

/-! What comes after ADC_INIT. -/

/-- All that ADC_INIT has done is as it was, and so are the drivers. -/
structure BootKept (b c : Block) : Prop where
  cfg : c.cfg = b.cfg
  phase : c.phase = b.phase
  ckmode : c.ckmode = b.ckmode
  adcId : c.adcId = b.adcId
  cal : ∀ i, (c.ch.get i).cal = (b.ch.get i).cal
  tecEn : ∀ i, (c.ch.get i).tecEn = (b.ch.get i).tecEn

namespace BootKept

variable {a b c : Block}

theorem refl (b : Block) : BootKept b b := ⟨rfl, rfl, rfl, rfl, fun _ => rfl, fun _ => rfl⟩

theorem trans (h : BootKept a b) (k : BootKept b c) : BootKept a c :=
  ⟨k.cfg.trans h.cfg, k.phase.trans h.phase, k.ckmode.trans h.ckmode, k.adcId.trans h.adcId,
    fun i => (k.cal i).trans (h.cal i), fun i => (k.tecEn i).trans (h.tecEn i)⟩

/-- Of a channel's record rewritten but for the calibration and the driver. -/
theorem of_set {ch : Ch} {x : Channel} (hcfg : c.cfg = b.cfg) (hphase : c.phase = b.phase) (hmode : c.ckmode = b.ckmode)
    (hid : c.adcId = b.adcId) (hch : c.ch = b.ch.set ch x) (hcal : x.cal = (b.ch.get ch).cal)
    (htec : x.tecEn = (b.ch.get ch).tecEn) : BootKept b c := by
  refine ⟨hcfg, hphase, hmode, hid, fun i => ?_, fun i => ?_⟩ <;> rw [hch, PerCh.get_set]
  · by_cases hi : i = ch
    · rw [if_pos hi, hcal, hi]
    · rw [if_neg hi]
  · by_cases hi : i = ch
    · rw [if_pos hi, htec, hi]
    · rw [if_neg hi]

theorem of_searched {ch : Ch} (h : Searched ch b c) : BootKept b c := by
  obtain ⟨_, _, _, _, _, rfl⟩ := h
  exact of_set rfl rfl rfl rfl rfl rfl rfl

theorem updCh (b : Block) (ch : Ch) {f : Channel → Channel} (hcal : (f (b.ch.get ch)).cal = (b.ch.get ch).cal)
    (htec : (f (b.ch.get ch)).tecEn = (b.ch.get ch).tecEn) : BootKept b (b.updCh ch f) :=
  of_set rfl rfl rfl rfl rfl hcal htec

end BootKept

/-- R208: the outcome of a search is no calibration of the ADC and drives no pin. -/
theorem calibrated_keeps (c : Channel) (mode : CalMode) (target : F64) (best : Option DacCode) :
    (c.calibrated mode target best).cal = c.cal ∧ (c.calibrated mode target best).tecEn = c.tecEn := by
  cases best with
  | none => cases mode <;> exact ⟨rfl, rfl⟩
  | some v =>
    cases mode with
    | vrefBias => exact ⟨rfl, rfl⟩
    | factor =>
      rw [Channel.calibrated]
      by_cases hv : v = 0#18
      · rw [if_pos hv]
        exact ⟨rfl, rfl⟩
      · rw [if_neg hv]
        exact ⟨rfl, rfl⟩

/-- R214, R215: the errors of the two calibrations. -/
def bootErrors : List (BitVec 8 × BitVec 32) := [(1#8, 1#32), (1#8, 2#32), (1#8, 3#32), (5#8, 5#32)]

theorem calErrors_subset (ch : Ch) : calErrors ch ⊆ bootErrors := by cases ch <;> decide

theorem among_mono {es es' : List (BitVec 8 × BitVec 32)} (h : es ⊆ es') : ∀ {e : Stop}, e.among es → e.among es'
  | .raised _, he => h he
  | .paused, _ => trivial

theorem frame_boot : Cmd.Frame BootKept (fun _ => Stop.among bootErrors) := ⟨BootKept.refl, BootKept.trans, fun _ h => h⟩

/-- R208 in BLOCK_INIT. -/
theorem calibrateDac_keeps_boot (ch : Ch) : (calibrateDac ch).Within BootKept (fun _ => Stop.among bootErrors) := by
  intro b
  have hclear : BootKept b (b.calCleared ch) := BootKept.updCh b ch rfl rfl
  have hend := calibrateDac_ends ch b
  match hrun : calibrateDac ch b with
  | .ok best t =>
    rw [hrun] at hend
    obtain ⟨c, target, hsearched, rfl⟩ := hend
    obtain ⟨hcal, htec⟩ := calibrated_keeps (c.ch.get ch) c.cfg.calMode target best
    exact hclear.trans ((BootKept.of_searched hsearched).trans (BootKept.updCh c ch hcal htec))
  | .error e t =>
    rw [hrun] at hend
    exact ⟨hclear.trans (BootKept.of_searched hend.1), among_mono (calErrors_subset ch) hend.2⟩

/-- R153. -/
theorem run_dacInit (ch : Ch) (b : Block) : dacInit ch b = .ok () (afterDacInit b ch) := by
  rw [dacInit, Cmd.run_bind_ok (Cmd.run_look _ b), Cmd.run_bind_ok (Cmd.run_pinSet _ _ b), Cmd.run_update]
  simp only [afterDacInit, Block.drive, Block.setPin, Block.record, PerCh.set_set]

theorem dacInit_keeps_boot (ch : Ch) : (dacInit ch).Within BootKept (fun _ => Stop.among bootErrors) := by
  intro b
  rw [run_dacInit]
  exact ⟨rfl, rfl, rfl, rfl, fun _ => rfl, fun _ => rfl⟩

/-- R214: BLOCK_INIT after its ADC_INIT. -/
def bringUp : Cmd Results := do
  dacInit .c0
  dacInit .c1
  let _ ← calibrateDac .c0
  let _ ← calibrateDac .c1
  let id ← look (·.adcId)
  pure { rD := id.map (·.setWidth 32) }

theorem bringUp_keeps_boot : bringUp.Within BootKept (fun _ => Stop.among bootErrors) :=
  Cmd.Within.bind frame_boot (dacInit_keeps_boot .c0) (fun _ => Cmd.Within.bind frame_boot (dacInit_keeps_boot .c1) (fun _ =>
    Cmd.Within.bind frame_boot (calibrateDac_keeps_boot .c0) (fun _ =>
      Cmd.Within.bind frame_boot (calibrateDac_keeps_boot .c1) (fun _ =>
        Cmd.Within.bind frame_boot (Cmd.Within.look frame_boot _) (fun _ => Cmd.Within.pure frame_boot _)))))

/-- What it reports is the ID held at its end. -/
theorem bringUp_result {b c : Block} {r : Results} (h : bringUp b = .ok r c) : r = { rD := c.adcId.map (·.setWidth 32) } := by
  obtain ⟨_, _, -, h⟩ := Cmd.bind_ok_iff.mp h
  obtain ⟨_, _, -, h⟩ := Cmd.bind_ok_iff.mp h
  obtain ⟨_, _, -, h⟩ := Cmd.bind_ok_iff.mp h
  obtain ⟨_, _, -, h⟩ := Cmd.bind_ok_iff.mp h
  cases h
  rfl

end Sys2Proof.Machine
end

section
/-! BLOCK_INIT as a command (47_channel.md R214): its fault-free run, and every other way it can end. -/

namespace Sys2Proof.Machine

open Safety

/-- R214, R205: both drivers off. -/
def driversOff (b : Block) : Block := afterTec (afterTec b .c0 false) .c1 false

theorem run_bodyBlockInit (b : Block) : bodyBlockInit b = (adcInit >>= fun _ => bringUp) (driversOff b) := by
  rw [bodyBlockInit, Cmd.run_bind_ok (setTecEn_run .c0 false b), Cmd.run_bind_ok (setTecEn_run .c1 false _)]
  rfl

theorem exec_blockInit (s : State) : exec .blockInit s = .next (settle .blockInit s (bodyBlockInit s.toBlock)) := rfl

/-- R214: what follows ADC_INIT, with DACs that take every code and samplers that settle. -/
theorem bringUp_run {b : Block} {w0 w1 : Sampler} {r0 r1 : CalAnswers} {rest : List Answer}
    (h0 : calibrates (afterDacInit (afterDacInit b .c0) .c1) w0 r0 (r1.all ++ rest))
    (h1 : calibrates (afterCalibrate (afterDacInit (afterDacInit b .c0) .c1) .c0 w0 r0 (r1.all ++ rest)) w1 r1 rest) :
    bringUp b = .ok { rD := b.adcId.map (·.setWidth 32) }
      (afterCalibrate (afterCalibrate (afterDacInit (afterDacInit b .c0) .c1) .c0 w0 r0 (r1.all ++ rest)) .c1 w1 r1 rest) := by
  rw [bringUp, Cmd.run_bind_ok (run_dacInit .c0 b), Cmd.run_bind_ok (run_dacInit .c1 _), Cmd.run_bind_ok (calibrateDac_run h0),
    Cmd.run_bind_ok (calibrateDac_run h1)]
  rfl

/-- R222: what a BLOCK_INIT that began on b has done in block t: the drivers are off, ADC_INIT is where the phase says, and before
phase RUN nothing of the DACs has been done. -/
structure BootReached (b t : Block) : Prop where
  init : initReached b t
  off : ∀ ch, (t.ch.get ch).tecEn = false
  outputs : t.phase ≠ .run → ∀ ch, (t.ch.get ch).dacCode = (b.ch.get ch).dacCode ∧ (t.ch.get ch).vrefMeas = (b.ch.get ch).vrefMeas ∧
    (t.ch.get ch).dacFs = (b.ch.get ch).dacFs ∧ (t.ch.get ch).calFailed = (b.ch.get ch).calFailed ∧
    t.sync.get ch = b.sync.get ch

/-- How a BLOCK_INIT that began on b ends: well in phase RUN, or broken off with an error of the step the phase names, in phase RUN
one of a calibration. -/
def BootEnd (b : Block) : EStateM.Result Stop Block Results → Prop
  | .ok r t => BootReached b t ∧ t.phase = .run ∧ r = { rD := t.adcId.map (·.setWidth 32) }
  | .error e t => BootReached b t ∧ (t.phase ≠ .run → e.among (initErrors t.phase)) ∧ (t.phase = .run → e.among bootErrors)

section Ends
variable {b t c : Block}

/-- Switching the drivers off is no part of ADC_INIT. -/
theorem initReached_driversOff (h : initReached (driversOff b) t) : initReached b t := h

theorem initReached_of_bootKept (h : BootKept t c) (ht : initReached b t) : initReached b c := by
  simpa only [initReached, idOfFamily, h.cfg, h.phase, h.ckmode, h.adcId, h.cal] using ht

theorem driversOff_tecEn (b : Block) (ch : Ch) : ((driversOff b).ch.get ch).tecEn = false := by cases ch <;> rfl

/-- Where ADC_INIT has broken off the outputs are those of before, but for the drivers. -/
theorem bootReached_of_outputsKept (hinit : initReached (driversOff b) t) (h : OutputsKept (driversOff b) t) : BootReached b t := by
  refine ⟨initReached_driversOff hinit, fun ch => ?off, fun _ ch => ?outputs⟩ <;> obtain ⟨cal, hch⟩ := h.ch ch
  case off => rw [hch, driversOff_tecEn]
  case outputs =>
    rw [hch, h.sync]
    cases ch <;> exact ⟨rfl, rfl, rfl, rfl, rfl⟩

/-- After ADC_INIT the drivers stay off and its effects stay. -/
theorem bootReached_of_bootKept (h : BootKept t c) (hrun : t.phase = .run) (ht : BootReached b t) : BootReached b c :=
  ⟨initReached_of_bootKept h ht.init, fun ch => (h.tecEn ch).trans (ht.off ch), fun hne => absurd (h.phase.trans hrun) hne⟩

/-- R214, R222: ADC_INIT's end, then the end of what follows it. -/
theorem bodyBlockInit_ends (b : Block) : BootEnd b (bodyBlockInit b) := by
  have hinit := adcInit_runs (driversOff b) _ (Kept.refl _)
  have houtputs := adcInit_keeps_outputs (driversOff b)
  rw [run_bodyBlockInit]
  match hadc : adcInit (driversOff b) with
  | .error e t =>
    rw [hadc] at hinit houtputs
    obtain ⟨hreached, hphase, herror⟩ := hinit
    rw [Cmd.run_bind_error hadc]
    exact ⟨bootReached_of_outputsKept hreached houtputs.1, fun _ => herror, fun h => absurd h hphase⟩
  | .ok id t =>
    rw [hadc] at hinit houtputs
    obtain ⟨hreached, hphase, -⟩ := hinit
    have hboot := bootReached_of_outputsKept hreached houtputs
    have hkept := bringUp_keeps_boot t
    rw [Cmd.run_bind_ok hadc]
    match hup : bringUp t with
    | .ok r c =>
      rw [hup] at hkept
      exact ⟨bootReached_of_bootKept hkept hphase hboot, hkept.phase.trans hphase, bringUp_result hup⟩
    | .error e c =>
      rw [hup] at hkept
      obtain ⟨hkept, herror⟩ := hkept
      exact ⟨bootReached_of_bootKept hkept hphase hboot, fun h => absurd (hkept.phase.trans hphase) h, fun _ => herror⟩

end Ends

/-- Settles O59: fault-free, the bodies run one after the other, each as its own lemma says; and whatever the agents answer, what
ADC_INIT leaves alone and what the calibrations leave alone put together say how far the command has come. -/
theorem blockInitCompletes : Obligations.BlockInitCompletes := by
  unfold Obligations.BlockInitCompletes
  refine ⟨fun s r w0 w1 r0 r1 as rest hn hp hb hconv => ?faultFree, fun s t hexec => ?anyAnswers⟩
  case faultFree =>
    intro b1 b2 b3 h0 h1
    have hinit : adcInit (driversOff s.toBlock) = .ok _ b1 :=
      (adcInit_exchanges (b := driversOff s.toBlock) hn hp hb).run hconv
    refine runCommand_completed ((run_bodyBlockInit s.toBlock).trans ?_)
    rw [Cmd.run_bind_ok hinit]
    exact bringUp_run h0 h1
  case anyAnswers =>
    rw [exec_blockInit] at hexec
    obtain rfl : settle .blockInit s (bodyBlockInit s.toBlock) = t := by injection hexec
    have hend := bodyBlockInit_ends s.toBlock
    match hrun : bodyBlockInit s.toBlock with
    | .ok r b =>
      rw [hrun] at hend
      obtain ⟨hreached, hphase, rfl⟩ := hend
      rw [settle_ok]
      exact ⟨hreached.init, fun ch => ⟨hreached.off ch, fun h => hreached.outputs h ch⟩,
        fun _ => ⟨fun h => absurd hphase h, fun _ => .inl ⟨rfl, rfl⟩⟩⟩
    | .error (.raised e) b =>
      rw [hrun] at hend
      obtain ⟨hreached, hinit, hboot⟩ := hend
      rw [settle_raised]
      exact ⟨hreached.init, fun ch => ⟨hreached.off ch, fun h => hreached.outputs h ch⟩,
        fun _ => ⟨fun h => ⟨e.info, rfl, hinit h⟩, fun h => .inr ⟨e.info, rfl, hboot h⟩⟩⟩
    | .error .paused b =>
      rw [hrun] at hend
      obtain ⟨hreached, -, -⟩ := hend
      rw [settle_paused]
      exact ⟨hreached.init, fun ch => ⟨hreached.off ch, fun h => hreached.outputs h ch⟩, fun h => nomatch h⟩

end Sys2Proof.Machine
end

section
/-! IllegalCommand (60_exceptions.md R217): the operand checks come before all else in a command, and nothing after them raises
it. -/

namespace Sys2Proof.Machine

open Safety

/-! After the operand checks. -/

/-- A stop that is no IllegalCommand. -/
def Stop.pastChecks : Stop → Prop
  | .raised (.illegalCommand _) => False
  | .raised _ => True
  | .paused => True

/-- The parameters are as they were: no command writes them, so the retry budget stays what it is. -/
def CfgKept (b c : Block) : Prop := c.cfg = b.cfg

/-- However x ends, it is not with IllegalCommand. -/
abbrev Cmd.PastChecks {α : Type} (x : Cmd α) : Prop := x.Within CfgKept (fun _ => Stop.pastChecks)

theorem frame_cfgKept : Cmd.Frame CfgKept (fun _ => Stop.pastChecks) :=
  ⟨fun _ => rfl, fun h k => Eq.trans k h, fun _ h => h⟩

theorem cfgKept_drive (b : Block) (p : Pin) (l : Level) : CfgKept b (b.drive p l) := by cases p <;> rfl

namespace Cmd.PastChecks

variable {α β : Type}

theorem pure (a : α) : (Pure.pure a : Cmd α).PastChecks := Cmd.Within.pure frame_cfgKept a

theorem look (f : Block → α) : (Machine.look f).PastChecks := Cmd.Within.look frame_cfgKept f

theorem update {f : Block → Block} (h : ∀ b, CfgKept b (f b)) : (Machine.update f).PastChecks := Cmd.Within.update h

theorem bind {x : Cmd α} {f : α → Cmd β} (hx : x.PastChecks) (hf : ∀ a, (f a).PastChecks) : (x >>= f).PastChecks :=
  Cmd.Within.bind frame_cfgKept hx hf

/-- A computation followed by an answer made of its own. -/
theorem map {x : Cmd α} {f : α → β} (hx : x.PastChecks) : (x >>= fun a => Pure.pure (f a)).PastChecks :=
  bind hx (fun _ => pure _)

theorem ite {p : Prop} [Decidable p] {x y : Cmd α} (hx : x.PastChecks) (hy : y.PastChecks) :
    (if p then x else y).PastChecks := by
  by_cases hp : p
  · rw [if_pos hp]; exact hx
  · rw [if_neg hp]; exact hy

/-! The ports fail with Transport. -/

theorem spiXfer (port : Port) (out : List Byte) : (spiXfer port out).PastChecks := by
  intro b
  rw [run_spiXfer]
  cases b.nextAnswer.fails
  · exact rfl
  · exact ⟨rfl, trivial⟩

theorem fbSample (ch : Ch) (src : FbSource) : (fbSample ch src).PastChecks := by
  intro b
  rw [run_fbSample]
  cases b.nextAnswer.fails
  · exact rfl
  · exact ⟨rfl, trivial⟩

theorem writeDac (ch : Ch) (v : DacCode) : (writeDac ch v).PastChecks := by
  intro b
  rw [run_writeDac]
  cases b.nextAnswer.fails
  · exact rfl
  · exact ⟨rfl, trivial⟩

theorem setTecEn (ch : Ch) (f : Bool) : (setTecEn ch f).PastChecks := update (fun b => cfgKept_drive b _ _)

theorem dacInit (ch : Ch) : (dacInit ch).PastChecks := fun b => by rw [run_dacInit]; rfl

/-- A retry loop fails with RetriesExhausted, or pauses. -/
theorem reads : Cmd.Reads CfgKept (fun _ => Stop.pastChecks) :=
  ⟨frame_cfgKept, fun _ _ _ _ => trivial, fun _ _ => trivial, fun _ _ h => congrArg Params.retryLimit h,
    Cmd.Within.adcFrame frame_cfgKept (fun b l => cfgKept_drive b _ l) (spiXfer .adc), fun _ => rfl⟩

/-! The bodies of the larger commands. -/

theorem updateReg (a : RegAddr) (f : BitVec 32 → BitVec 32) : (updateReg a f).PastChecks :=
  reads.within_updateReg (fun _ => rfl) a f

theorem adcInit : adcInit.PastChecks :=
  reads.within_adcInit (fun _ => rfl) (fun _ _ => rfl) (fun _ => rfl) (fun _ _ _ => rfl) (fun _ _ _ => rfl) (fun _ _ => rfl)

theorem calibrateDac (ch : Ch) : (calibrateDac ch).PastChecks :=
  reads.within_calibrateDac ch (fbSample ch) (writeDac ch) (fun _ => rfl) (fun _ _ _ _ => rfl)

theorem controlStep (ch : Ch) : (controlStep ch).PastChecks :=
  reads.within_controlStep ch (fun _ _ => rfl) (fun _ _ => rfl) (fun _ _ _ => rfl) (writeDac ch) (setTecEn ch)

/-- R220: a code without a calibration fails with ConversionUnavailable. -/
theorem convertCode (ch : Ch) (code : AdcCode) : (convertCode ch code).PastChecks := by
  refine bind (look _) (fun cal => bind (look _) (fun p => ?_))
  cases cal with
  | none => exact Cmd.Within.raise frame_cfgKept (fun _ => trivial)
  | some k => exact pure _

/-- R155: a code above DAC_MAX fails with DacRange. -/
theorem bodyDacSetCode (ch : Ch) : (bodyDacSetCode ch).PastChecks :=
  bind (look _) (fun _ => ite (Cmd.Within.raise frame_cfgKept (fun _ => trivial)) (bind (writeDac ch _) (fun _ => pure _)))

theorem setManual (ch : Ch) (code : Channel → DacCode) : (setManual ch code).PastChecks :=
  bind (update (fun _ => rfl)) (fun _ => bind (look _) (fun _ => bind (writeDac ch _) (fun _ => pure _)))

theorem bodyChSetCenter (ch : Ch) (sel : CenterSel) : (bodyChSetCenter ch sel).PastChecks :=
  bind (look _) (fun _ => bind (look _) (fun _ => bind (update (fun _ => rfl)) (fun _ =>
    ite (pure _) (bind (look _) (fun _ => bind (writeDac ch _) (fun _ => pure _))))))

theorem bodyPollAdc : bodyPollAdc.PastChecks := by
  refine bind (look _) (fun now => bind (look _) (fun t => bind reads.within_readStatus (fun st => ite ?ready (pure _))))
  refine bind (reads.within_readValue _) (fun code => ?_)
  cases controlChannel (t.statusChannel st) with
  | none => exact pure _
  | some ch =>
    exact bind (bind (look _) (fun _ => update (fun _ => rfl))) (fun _ => bind (controlStep ch) (fun _ => pure _))

theorem bodyBlockInit : bodyBlockInit.PastChecks :=
  bind (setTecEn .c0 false) (fun _ => bind (setTecEn .c1 false) (fun _ => bind adcInit (fun _ =>
    bind (dacInit .c0) (fun _ => bind (dacInit .c1) (fun _ => bind (calibrateDac .c0) (fun _ =>
      bind (calibrateDac .c1) (fun _ => bind (look _) (fun _ => pure _))))))))

end Cmd.PastChecks

/-! The operand checks. -/

/-- R106, R217: run on b, x first refuses with IllegalCommand(CMD), b as it was, unless `legal`; past that it never does. -/
def Cmd.Checked {α : Type} (legal : Bool) (b : Block) (x : Cmd α) : Prop :=
  match legal, x b with
  | true, .ok _ _ => True
  | true, .error e _ => e.pastChecks
  | false, r => r = .error (.raised (.illegalCommand b.cmd)) b

namespace Cmd.Checked

variable {α β : Type} {b : Block} {legal more : Bool}

/-- A computation without a check. -/
theorem of_pastChecks {x : Cmd α} (h : x.PastChecks) : x.Checked true b := by
  have hb := h b
  unfold Cmd.Checked
  cases hx : x b with
  | ok a c => trivial
  | error e c => rw [hx] at hb; exact hb.2

/-- A computation that cannot stop. -/
theorem of_ok {x : Cmd α} {a : α} {c : Block} (h : x b = .ok a c) : x.Checked true b := by
  unfold Cmd.Checked
  rw [h]
  trivial

/-- After the last check there is no more to require. -/
theorem last {x : Cmd α} (h : x.Checked (legal && true) b) : x.Checked legal b := by
  rwa [Bool.and_true] at h

theorem look_bind {g : Block → α} {f : α → Cmd β} (hf : (f (g b)).Checked legal b) : (look g >>= f).Checked legal b := hf

/-- A check, and then the others. -/
theorem requireLegal_bind {f : Unit → Cmd β} (hf : (f ()).Checked more b) :
    (requireLegal legal >>= f).Checked (legal && more) b := by
  cases legal
  · exact Cmd.run_bind_error (Cmd.run_requireLegal false b) f
  · exact hf

/-- R149, R150: opD as a register's value. -/
theorem operandRegValue_bind {a : RegAddr} {f : BitVec 32 → Cmd β} (hf : (f b.opD).Checked more b) :
    (operandRegValue a >>= f).Checked (b.regs.fits a b.opD && more) b := by
  unfold operandRegValue
  simp only [bind_assoc, pure_bind]
  exact look_bind (look_bind (requireLegal_bind hf))

/-- R150: opM as a mask. -/
theorem operandRegMask_bind {a : RegAddr} {f : BitVec 32 → Cmd β} (hf : (f b.opM).Checked more b) :
    (operandRegMask a >>= f).Checked (b.regs.fits a b.opM && more) b := by
  unfold operandRegMask
  simp only [bind_assoc, pure_bind]
  exact look_bind (look_bind (requireLegal_bind hf))

/-- R191, R195: opD as a code. -/
theorem operandCode_bind {f : AdcCode → Cmd β} (hf : (f (b.opD.setWidth 24)).Checked more b) :
    (operandCode >>= f).Checked (decide (b.opD.toNat ≤ 0xFFFFFF) && more) b := by
  unfold operandCode
  simp only [bind_assoc, pure_bind]
  exact look_bind (requireLegal_bind hf)

end Cmd.Checked
/-! The commands with operands to check. -/

section Bodies

variable {b : Block}

/-- R148. -/
theorem bodyAdcReadReg_checked (a : RegAddr) : (bodyAdcReadReg a).Checked (b.regs.known a) b :=
  .look_bind (.last (.requireLegal_bind (.of_pastChecks (.map (Cmd.PastChecks.reads.within_readValue a)))))

/-- R149. -/
theorem bodyAdcWriteReg_checked (a : RegAddr) :
    (bodyAdcWriteReg a).Checked (b.regs.writable a && b.regs.fits a b.opD) b :=
  .look_bind (.requireLegal_bind (.last (.operandRegValue_bind (.look_bind (.of_pastChecks
    (.map (Cmd.PastChecks.reads.within_writeReg (fun _ => rfl) a _)))))))

/-- R150. -/
theorem bodyAdcUpdateReg_checked (a : RegAddr) :
    (bodyAdcUpdateReg a).Checked (b.regs.writable a && (b.regs.fits a b.opD && b.regs.fits a b.opM)) b :=
  .look_bind (.requireLegal_bind (.operandRegValue_bind (.last (.operandRegMask_bind (.of_pastChecks
    (.map (Cmd.PastChecks.updateReg a _)))))))

/-- R138. -/
theorem bodyAdcSetupChannel_checked (i : Ch) (inPos inNeg : BitVec 5) :
    (bodyAdcSetupChannel i inPos inNeg).Checked (b.regs.selectorLegal inPos && b.regs.selectorLegal inNeg) b :=
  .look_bind (.last (.requireLegal_bind (.of_pastChecks
    (.map (Cmd.PastChecks.reads.within_setupChannel (fun _ => rfl) i inPos inNeg)))))

/-- R142. -/
theorem bodyAdcSetPostfilter_checked (i : Ch) (code : Option (BitVec 3)) :
    (bodyAdcSetPostfilter i code).Checked (b.cfg.tables.postfilterOperandLegal code) b :=
  .look_bind (.last (.requireLegal_bind (.of_pastChecks (.map (Cmd.PastChecks.updateReg _ _)))))

/-- R191. -/
theorem bodyChConvertData_checked (ch : Ch) : (bodyChConvertData ch).Checked (decide (b.opD.toNat ≤ 0xFFFFFF)) b :=
  .last (.operandCode_bind (.of_pastChecks (.map (Cmd.PastChecks.convertCode ch _))))

/-- R195. -/
theorem bodyChSample_checked (ch : Ch) : (bodyChSample ch).Checked (decide (b.opD.toNat ≤ 0xFFFFFF)) b :=
  .last (.operandCode_bind (.of_ok rfl))

/-! R211: a field is reported exactly when its id is in the table and IDX fits it. -/

/-- The ids of the channel fields. -/
theorem fieldClass_channel {id : BitVec 8} (h : fieldClass id = some .channel) :
    id.toNat ≤ 0x13 ∨ (0x20 ≤ id.toNat ∧ id.toNat ≤ 0x2A) ∨ (0x30 ≤ id.toNat ∧ id.toNat ≤ 0x3A) ∨
      (0x40 ≤ id.toNat ∧ id.toNat ≤ 0x42) ∨ (0x50 ≤ id.toNat ∧ id.toNat ≤ 0x52) := by
  simp only [fieldClass] at h
  split_ifs at h <;> simp_all

/-- The ids of the matrix fields. -/
theorem fieldClass_matrix {id : BitVec 8} (h : fieldClass id = some .matrix) : 0x60 ≤ id.toNat ∧ id.toNat ≤ 0x6E := by
  simp only [fieldClass] at h
  split_ifs at h <;> simp_all

/-- The ids of the block fields. -/
theorem fieldClass_block {id : BitVec 8} (h : fieldClass id = some .block) : 0xF0 ≤ id.toNat ∧ id.toNat ≤ 0xF8 := by
  simp only [fieldClass] at h
  split_ifs at h <;> simp_all

theorem channelField_isSome (ch : Ch) {id : BitVec 8} (h : fieldClass id = some .channel) :
    (channelField b ch id.toNat).isSome = true := by
  have hid := fieldClass_channel h
  generalize id.toNat = n at hid
  rcases hid with hid | ⟨_, _⟩ | ⟨_, _⟩ | ⟨_, _⟩ | ⟨_, _⟩ <;> interval_cases n <;> rfl

theorem matrixField_isSome (m : MtxSlot) {id : BitVec 8} (h : fieldClass id = some .matrix) :
    (matrixField m id.toNat).isSome = true := by
  have hid := fieldClass_matrix h
  generalize id.toNat = n at hid
  obtain ⟨_, _⟩ := hid
  interval_cases n <;> rfl

theorem blockField_isSome {id : BitVec 8} (h : fieldClass id = some .block) : (blockField b id.toNat).isSome = true := by
  have hid := fieldClass_block h
  generalize id.toNat = n at hid
  obtain ⟨_, _⟩ := hid
  interval_cases n <;> rfl

theorem Block.field_isSome (b : Block) (idx : BitVec 3) (id : BitVec 8) : (b.field idx id).isSome = fieldLegal idx id := by
  rw [Block.field, fieldLegal]
  match hid : fieldClass id with
  | none => rfl
  | some .channel =>
    simp only [fieldIdxLegal]
    cases chOf idx with
    | none => rfl
    | some ch => exact channelField_isSome ch hid
  | some .matrix => exact matrixField_isSome _ hid
  | some .block =>
    by_cases hidx : idx = 0#3
    · simp only [hidx, if_true, fieldIdxLegal, blockField_isSome hid, beq_self_eq_true]
    · simp [hidx, fieldIdxLegal]

/-- R211. -/
theorem bodyChReadField_checked (idx : BitVec 3) (id : BitVec 8) : (bodyChReadField idx id).Checked (fieldLegal idx id) b := by
  rw [← Block.field_isSome b]
  refine .look_bind (.look_bind ?_)
  cases b.field idx id with
  | none => exact Cmd.run_raise _ b
  | some r => exact .of_ok (Cmd.run_pure r b)

end Bodies

/-! The command. -/

/-- R217: how a command whose body checks its operands ends. -/
theorem runCommand_checked {i : Instr} {body : Cmd Results} {s : State} {legal : Bool} (h : body.Checked legal s.toBlock) :
    (legal = false → runCommand i body s = .next (failed s s.toBlock 2#8 s.cmd)) ∧
      (legal = true → ∀ t : State, runCommand i body s = .next t → t.running = none → t.rStatus ≠ 2#8) := by
  refine ⟨fun hl => ?illegal, fun hl t hexec hend => ?legal⟩ <;> subst hl
  case illegal => exact runCommand_failed h
  case legal =>
    rw [runCommand_next] at hexec
    obtain rfl : settle i s (body s.toBlock) = t := by injection hexec
    unfold Cmd.Checked at h
    match hrun : body s.toBlock with
    | .ok r c => exact (by decide : (0#8 : BitVec 8) ≠ 2#8)
    | .error (.raised e) c =>
      rw [hrun] at h
      cases e with
      | illegalCommand w => exact h.elim
      | transport _ => exact (by decide : (1#8 : BitVec 8) ≠ 2#8)
      | dacRange _ => exact (by decide : (3#8 : BitVec 8) ≠ 2#8)
      | conversionUnavailable _ => exact (by decide : (4#8 : BitVec 8) ≠ 2#8)
      | retriesExhausted _ => exact (by decide : (5#8 : BitVec 8) ≠ 2#8)
    | .error .paused c =>
      rw [hrun] at hend
      exact nomatch hend

/-- Where nothing of the state is checked, legal is well-formed. -/
theorem commandLegal_of_wellFormed {i : Instr} {s : State} (h : commandLegal i s = (i.wellFormed s.cfg.tables && true)) :
    commandLegal i s = i.wellFormed s.cfg.tables := h.trans (Bool.and_true _)

theorem wellFormed_adcSetPostfilter (T : AdcTables) (ch : Ch) (code : Option (BitVec 3)) :
    (Instr.adcSetPostfilter ch code).wellFormed T = T.postfilterOperandLegal code := by cases code <;> rfl

/-- Settles O6: eight commands have operands to check, and check them first; the bodies of the others, and what follows a check,
read and write the block or stop at the ports and in the retry loops, where no error is IllegalCommand. -/
theorem illegalCommandOnlyAtDecode : Obligations.IllegalCommandOnlyAtDecode := by
  unfold Obligations.IllegalCommandOnlyAtDecode
  intro i s hw
  have hreads := Cmd.PastChecks.reads
  cases i
  case adcReadReg a =>
    rw [commandLegal_of_wellFormed rfl]
    exact runCommand_checked (bodyAdcReadReg_checked a)
  case adcWriteReg a => exact runCommand_checked (bodyAdcWriteReg_checked a)
  case adcUpdateReg a => exact runCommand_checked (bodyAdcUpdateReg_checked a)
  case adcSetupChannel ch inPos inNeg =>
    rw [commandLegal_of_wellFormed rfl]
    exact runCommand_checked (bodyAdcSetupChannel_checked ch inPos inNeg)
  case adcSetPostfilter ch code =>
    rw [commandLegal_of_wellFormed rfl, wellFormed_adcSetPostfilter]
    exact runCommand_checked (bodyAdcSetPostfilter_checked ch code)
  case chConvertData ch => exact runCommand_checked (bodyChConvertData_checked ch)
  case chSample ch => exact runCommand_checked (bodyChSample_checked ch)
  case chReadField idx id =>
    rw [commandLegal_of_wellFormed rfl]
    exact runCommand_checked (bodyChReadField_checked idx id)
  case ckInit | ckFeed | ckResult | adcPostfilterClosest | dacInit | shGetTemperature | shSetParam | pidUpdate | pidUpdateKi |
      pidSetParam | iirTick | iirSetCoeff | iirSetTarget | mtxTick | mtxSetCoeff | mtxSetSource | chGetTemperature | chGetI |
      chSetPidEngaged | chSetIirEngaged | chSetMtxSel | chSetTecEn | chSetPwmLimit =>
    exact runCommand_checked (.of_ok rfl)
  case adcReset => exact runCommand_checked (.of_pastChecks (.map (hreads.within_resetAdc (fun _ => rfl))))
  case adcIdentify =>
    exact runCommand_checked (.of_pastChecks (.map (hreads.within_identify (fun _ => rfl) (fun _ _ _ => rfl))))
  case adcSetChecksumMode m =>
    exact runCommand_checked (.of_pastChecks (.map (hreads.within_setChecksumMode (fun _ => rfl) m (fun _ => rfl))))
  case adcCalibrateOffset =>
    exact runCommand_checked (.of_pastChecks (.map (hreads.within_calibrateOffset (fun _ => rfl))))
  case adcGetCalibration ch =>
    exact runCommand_checked (.of_pastChecks (.map (hreads.within_getCalibration ch (fun _ _ => rfl))))
  case adcGetPostfilter ch =>
    exact runCommand_checked (.look_bind (.of_pastChecks (.map (hreads.within_readValue _))))
  case adcDataReady =>
    exact runCommand_checked (.of_pastChecks (.bind hreads.within_readStatus (fun _ => .map (.look _))))
  case adcReadData => exact runCommand_checked (.look_bind (.of_pastChecks (.map (hreads.within_readValue _))))
  case adcInit => exact runCommand_checked (.of_pastChecks (.map .adcInit))
  case dacSetCode ch => exact runCommand_checked (.of_pastChecks (.bodyDacSetCode ch))
  case dacSetVolts ch => exact runCommand_checked (.look_bind (.of_pastChecks (.map (.writeDac ch _))))
  case chSetI ch => exact runCommand_checked (.look_bind (.of_pastChecks (.setManual ch _)))
  case chSetDacVolts ch => exact runCommand_checked (.look_bind (.of_pastChecks (.setManual ch _)))
  case chSetCenter ch sel => exact runCommand_checked (.of_pastChecks (.bodyChSetCenter ch sel))
  case chCalibrateDac ch => exact runCommand_checked (.of_pastChecks (.map (.calibrateDac ch)))
  case pollAdc => exact runCommand_checked (.of_pastChecks .bodyPollAdc)
  case blockInit => exact runCommand_checked (.of_pastChecks .bodyBlockInit)
  case spiReadCmd | spiWriteCmd | spiResetFrame | dacWord => exact nomatch hw

end Sys2Proof.Machine
end

section
/-! POLL_ADC with a controller engaged (47_channel.md R207, R213; 60_exceptions.md R222): the sample, the matrix tick, the one
controller that drives the output, and the output sent to the DAC. -/

namespace Sys2Proof.Machine

open Safety

/-! The model's sample and code are those the claims name. -/

/-- R195. -/
theorem sampled_eq_sampledRecord (p : Params) (c : Channel) (code : AdcCode) (now : BitVec 32) :
    c.sampled p.sentinel code now = sampledRecord p c code now := by
  cases hlast : c.adcTime <;> simp only [Channel.sampled, sampleInterval, sampledRecord, hlast] <;> rfl

theorem run_sample (ch : Ch) (code : AdcCode) (now : BitVec 32) (b : Block) :
    sample ch code now b = .ok () (b.updCh ch (fun c => sampledRecord b.cfg c code now)) := by
  simp only [sample, Cmd.run_bind_ok (Cmd.run_look _ b), Cmd.run_updateCh, sampled_eq_sampledRecord]

/-- R192, R193. -/
theorem iToCode_eq_codeOfCurrent (c : Channel) (i : F64) : c.iToCode i = codeOfCurrent c (centerOf c) i := rfl

/-! The controllers: the matrix selection before the IIR before the PID. -/

section Controllers

variable {b : Block} {ch : Ch} (t : F64)

theorem controlOutput_matrix {k : Slot} (hk : (b.ch.get ch).mtxSel = some k) :
    controlOutput ch t b = .ok (some (b.mtx.get k).out) b := by
  rw [controlOutput, Cmd.run_bind_ok (Cmd.run_lookCh ch id b), id, hk]
  rfl

theorem controlOutput_iir (hk : (b.ch.get ch).mtxSel = none) (hi : (b.ch.get ch).iirEngaged = true) :
    controlOutput ch t b = .ok (some ((b.ch.get ch).iir.output t))
      (b.updCh ch (fun c => { c with iir := (b.ch.get ch).iir.step t })) := by
  rw [controlOutput, Cmd.run_bind_ok (Cmd.run_lookCh ch id b), id, hk]
  simp only [hi, if_true]
  rw [Cmd.run_bind_ok (run_iirStep ch t b), Cmd.run_pure]

theorem controlOutput_pid {dt : F64} (hk : (b.ch.get ch).mtxSel = none) (hi : (b.ch.get ch).iirEngaged = false)
    (hdt : (b.ch.get ch).adcInterval = some dt) (hpos : F64.lt zeroF dt = true) :
    controlOutput ch t b = .ok (some ((b.ch.get ch).pid.output t dt))
      (b.updCh ch (fun c => { c with pid := (b.ch.get ch).pid.step t dt })) := by
  rw [controlOutput, Cmd.run_bind_ok (Cmd.run_lookCh ch id b), id, hk]
  simp only [hi, Bool.false_eq_true, if_false, hdt, hpos, if_true]
  rw [Cmd.run_bind_ok (run_pidStep ch t dt b), Cmd.run_pure]

end Controllers

/-! The output. -/

section Output

variable {b : Block} {ch : Ch} {out : F64} {a : Answer} {rest : List Answer}

/-- R207: the code sent and the driver powered. -/
theorem driveOutput_ok (hs : b.script = a :: rest) (ha : a.fails = false) :
    driveOutput ch out b = .ok ()
      (afterTec (afterDac b ch (codeOfCurrent (b.ch.get ch) (centerOf (b.ch.get ch)) out) a rest) ch true) := by
  rw [driveOutput, Cmd.run_bind_ok (Cmd.run_lookCh ch _ b), Cmd.run_bind_ok (writeDac_ok ha hs), setTecEn_run,
    iToCode_eq_codeOfCurrent]

/-- R222: the DAC's transfer fails, and the driver is not reached. -/
theorem driveOutput_fail (hs : b.script = a :: rest) (ha : a.fails = true) :
    driveOutput ch out b = .error (.raised (.transport (.dac ch)))
      (afterDacFail b ch (codeOfCurrent (b.ch.get ch) (centerOf (b.ch.get ch)) out) rest) := by
  rw [driveOutput, Cmd.run_bind_ok (Cmd.run_lookCh ch _ b), Cmd.run_bind_error (writeDac_fail ha hs), iToCode_eq_codeOfCurrent]

end Output

/-! The control step, which looks at the block d after the matrix tick. -/

section Step

variable {b d : Block} {ch : Ch}

theorem run_mtxTick (b : Block) : mtxTick b = .ok () (b.setMtx b.ticked) := Cmd.run_update _ b

/-- R207: a channel without a temperature has its driver powered down. -/
theorem controlStep_absent (hd : b.setMtx b.ticked = d) (he : (d.ch.get ch).engaged = true) (ht : d.chTemp ch = none) :
    controlStep ch b = .ok () (afterTec d ch false) := by
  rw [controlStep, Cmd.run_bind_ok (run_mtxTick b), hd, Cmd.run_bind_ok (Cmd.run_lookCh ch _ d), he, if_pos rfl,
    Cmd.run_bind_ok (Cmd.run_look _ d), ht]
  exact setTecEn_run ch false d

/-- R207: with a temperature the controller's output is driven. -/
theorem controlStep_drives {temp out : F64} {next : Block} (hd : b.setMtx b.ticked = d) (he : (d.ch.get ch).engaged = true)
    (ht : d.chTemp ch = some temp) (ho : controlOutput ch temp d = .ok (some out) next) :
    controlStep ch b = driveOutput ch out next := by
  rw [controlStep, Cmd.run_bind_ok (run_mtxTick b), hd, Cmd.run_bind_ok (Cmd.run_lookCh ch _ d), he, if_pos rfl,
    Cmd.run_bind_ok (Cmd.run_look _ d), ht]
  exact Cmd.run_bind_ok ho _

end Step

/-! The command. -/

/-- R213: the two reads of POLL_ADC, of STATUS and of DATA. -/
def dataFrames (b : Block) (st p : List Byte) : List Safety.Frame :=
  [.read b.ckmode b.regs.status st, .read b.ckmode b.regs.data p]

/-- R213, R146: the reads of POLL_ADC on b are answered with a result of control channel ch. -/
structure PollAnswered (b : Block) (st p : List Byte) (ch : Ch) (as rest : List Answer) : Prop where
  nss : b.nss = .high
  ready : isReady b.regs st = true
  channel : fieldOf b.regs.channel (be st) = chIndex ch
  frames : converses b (dataFrames b st p) as rest

theorem controlChannel_chIndex (ch : Ch) : controlChannel (chIndex ch) = some ch := by cases ch <;> rfl

/-- R213, R195: the block after the reads and the sample. -/
def afterSample (b : Block) (st p : List Byte) (ch : Ch) (as rest : List Answer) : Block :=
  (afterFrames b (dataFrames b st p) as rest).updCh ch (fun c => sampledRecord b.cfg c ((be p).setWidth 24) b.opM)

section Poll

variable {s : State} {st p : List Byte} {ch : Ch} {as rest : List Answer} {a : Answer} {temp out : F64} {b d next : Block}

theorem afterSample_ticked (b : Block) (st p : List Byte) (ch : Ch) (as rest : List Answer) :
    (afterSample b st p ch as rest).setMtx (afterSample b st p ch as rest).ticked =
      afterPoll b (dataFrames b st p) ch ((be p).setWidth 24) as rest := rfl

/-- R213: the result is sampled, and the control step follows. -/
theorem bodyPollAdc_sampled (h : PollAnswered b st p ch as rest) :
    bodyPollAdc b = (controlStep ch >>= fun _ => pure (resultD (chInfo ch))) (afterSample b st p ch as rest) := by
  obtain ⟨xs, ys, rfl, hst, hp, hlen⟩ := converses_cons h.frames
  have hdata := readValue_good (b := afterFrames b [.read b.ckmode b.regs.status st] xs (ys ++ rest)) h.nss rfl hp
  rw [afterFrames_cons b _ _ xs ys rest _ hlen] at hdata
  rw [bodyPollAdc, Cmd.run_bind_ok (Cmd.run_look _ b), Cmd.run_bind_ok (Cmd.run_look _ b),
    Cmd.run_bind_ok (readStatus_good h.nss rfl hst), statusReady_eq, h.ready, if_pos rfl, Cmd.run_bind_ok hdata, statusChannel_eq,
    h.channel, controlChannel_chIndex]
  exact Cmd.run_bind_ok (run_sample ch _ _ _) _

/-- R207, R213: an engaged channel without a temperature. -/
theorem exec_pollAdc_absent (h : PollAnswered s.toBlock st p ch as rest)
    (hd : afterPoll s.toBlock (dataFrames s.toBlock st p) ch ((be p).setWidth 24) as rest = d)
    (he : (d.ch.get ch).engaged = true) (ht : d.chTemp ch = none) :
    exec .pollAdc s = .next (completed s (afterTec d ch false) (resultD (chInfo ch))) :=
  runCommand_completed ((bodyPollAdc_sampled h).trans
    (Cmd.run_bind_ok (controlStep_absent ((afterSample_ticked ..).trans hd) he ht) _))

/-- R207, R213: an engaged channel with a temperature, whose DAC takes the code. -/
theorem exec_pollAdc_sent (h : PollAnswered s.toBlock st p ch as (a :: rest))
    (hd : afterPoll s.toBlock (dataFrames s.toBlock st p) ch ((be p).setWidth 24) as (a :: rest) = d)
    (he : (d.ch.get ch).engaged = true) (ht : d.chTemp ch = some temp) (ho : controlOutput ch temp d = .ok (some out) next)
    (hs : next.script = a :: rest) (ha : a.fails = false) :
    exec .pollAdc s = .next (completed s
      (afterTec (afterDac next ch (codeOfCurrent (next.ch.get ch) (centerOf (next.ch.get ch)) out) a rest) ch true)
      (resultD (chInfo ch))) :=
  runCommand_completed ((bodyPollAdc_sampled h).trans
    (Cmd.run_bind_ok ((controlStep_drives ((afterSample_ticked ..).trans hd) he ht ho).trans (driveOutput_ok hs ha)) _))

/-- R207, R222: likewise, when the DAC's transfer fails. -/
theorem exec_pollAdc_failed (h : PollAnswered s.toBlock st p ch as (a :: rest))
    (hd : afterPoll s.toBlock (dataFrames s.toBlock st p) ch ((be p).setWidth 24) as (a :: rest) = d)
    (he : (d.ch.get ch).engaged = true) (ht : d.chTemp ch = some temp) (ho : controlOutput ch temp d = .ok (some out) next)
    (hs : next.script = a :: rest) (ha : a.fails = true) :
    exec .pollAdc s = .next (failed s
      (afterDacFail next ch (codeOfCurrent (next.ch.get ch) (centerOf (next.ch.get ch)) out) rest) 1#8 (Port.dac ch).info) :=
  runCommand_failed ((bodyPollAdc_sampled h).trans
    (Cmd.run_bind_error ((controlStep_drives ((afterSample_ticked ..).trans hd) he ht ho).trans (driveOutput_fail hs ha)) _))

end Poll

/-! Which flags mean engaged. -/

theorem engaged_of_mtxSel {c : Channel} {k : Slot} (h : c.mtxSel = some k) : c.engaged = true := by simp [Channel.engaged, h]

theorem engaged_of_iirEngaged {c : Channel} (h : c.iirEngaged = true) : c.engaged = true := by simp [Channel.engaged, h]

theorem engaged_of_pidEngaged {c : Channel} (h : c.pidEngaged = true) : c.engaged = true := by simp [Channel.engaged, h]

/-- Settles O58: the reads, the sample and the tick are the same whichever controller is engaged; what differs is the controller's
own step, which leaves the script and what turns a current into a code alone. -/
theorem pollAdcDrivesOutput : Obligations.PollAdcDrivesOutput := by
  unfold Obligations.PollAdcDrivesOutput
  intro s st p ch as a rest t fs b c done drives hn hready hch hconv
  have hpoll : PollAnswered s.toBlock st p ch as (a :: rest) := ⟨hn, hready, hch.trans (by cases ch <;> rfl), hconv⟩
  have hdone : resultD (chInfo ch) = done := by cases ch <;> rfl
  have hdrives (next : F64 → Block) (out : F64 → F64) (he : c.engaged = true)
      (ho : ∀ temp, controlOutput ch temp b = .ok (some (out temp)) (next temp))
      (hscript : ∀ temp, (next temp).script = a :: rest)
      (hcode : ∀ temp i, codeOfCurrent ((next temp).ch.get ch) (centerOf ((next temp).ch.get ch)) i =
        codeOfCurrent c (centerOf c) i) : drives next out := by
    have htemp : b.chTemp ch = celsiusOf b.cfg c := Block.chTemp_eq_celsiusOf b ch
    simp only [drives, ← hdone]
    cases hc : celsiusOf b.cfg c with
    | none => exact exec_pollAdc_absent hpoll rfl he (htemp.trans hc)
    | some temp =>
      simp only [← hcode temp]
      cases ha : a.fails with
      | false => exact exec_pollAdc_sent hpoll rfl he (htemp.trans hc) (ho temp) (hscript temp) ha
      | true =>
        have hfail := exec_pollAdc_failed hpoll rfl he (htemp.trans hc) (ho temp) (hscript temp) ha
        cases ch <;> exact hfail
  refine ⟨fun k hk => ?matrix, fun hk hi => ?iir, fun dt hk hi hp hdt hpos => ?pid⟩
  case matrix =>
    exact hdrives _ _ (engaged_of_mtxSel hk) (fun temp => controlOutput_matrix temp hk) (fun _ => rfl) (fun _ _ => rfl)
  case iir =>
    refine hdrives _ _ (engaged_of_iirEngaged hi) (fun temp => controlOutput_iir temp hk hi) (fun _ => rfl) (fun _ _ => ?_)
    rw [PerCh.get_set_same]
    rfl
  case pid =>
    refine hdrives _ _ (engaged_of_pidEngaged hp) (fun temp => controlOutput_pid temp hk hi hdt hpos) (fun _ => rfl)
      (fun _ _ => ?_)
    rw [PerCh.get_set_same]
    rfl

end Sys2Proof.Machine
end

section
/-! The four formats (30_encoding.md R82, R85, R100 to R107), read both ways at once: each field reading answers a value exactly when
the field holds that value's code, so a word decodes to an instruction exactly when it is the instruction's encoding. -/

namespace Sys2Proof.Machine

/-! The fields of a command word. -/

/-- R101: a command word is its four fields side by side. -/
theorem cmdWord_eq_iff {opc : BitVec 8} {idx sub : BitVec 3} {imm : BitVec 18} {w : BitVec 32} :
    cmdWord opc idx sub imm = .cmd32 w ↔ opcOf w = opc ∧ idxOf w = idx ∧ subOf w = sub ∧ immOf w = imm := by
  rw [cmdWord, Raw.cmd32.injEq]
  constructor
  · rintro rfl
    exact ⟨Laws.opcOf_append .., Laws.idxOf_append .., Laws.subOf_append .., Laws.immOf_append ..⟩
  · rintro ⟨rfl, rfl, rfl, rfl⟩
    apply BitVec.eq_of_getLsbD_eq
    intro i hi
    simp only [opcOf, idxOf, subOf, immOf, BitVec.getLsbD_append, BitVec.getLsbD_extractLsb']
    rcases (by omega : i < 18 ∨ 18 ≤ i ∧ i < 21 ∨ 21 ≤ i ∧ i < 24 ∨ 24 ≤ i ∧ i < 32) with h | ⟨h, h'⟩ | ⟨h, h'⟩ | ⟨h, h'⟩
    · simp [h]
    · have h1 : ¬ i < 18 := by omega
      have h2 : i - 18 < 3 := by omega
      have h3 : 18 + (i - 18) = i := by omega
      simp [h1, h2, h3]
    · have h1 : ¬ i < 18 := by omega
      have h2 : ¬ i - 18 < 3 := by omega
      have h3 : i - 18 - 3 < 3 := by omega
      have h4 : 21 + (i - 18 - 3) = i := by omega
      simp [h1, h2, h3, h4]
    · have h1 : ¬ i < 18 := by omega
      have h2 : ¬ i - 18 < 3 := by omega
      have h3 : ¬ i - 18 - 3 < 3 := by omega
      have h4 : i - 18 - 3 - 3 < 8 := by omega
      have h5 : 24 + (i - 18 - 3 - 3) = i := by omega
      simp [h1, h2, h3, h4, h5]

/-! Checks and field readings. -/

section Readings
variable {α β : Type} {r : Reject}

theorem except_bind_eq_ok {x : Except Reject α} {f : α → Except Reject β} {b : β} :
    (x >>= f) = .ok b ↔ ∃ a, x = .ok a ∧ f a = .ok b := by
  cases x <;> simp [bind, Except.bind]

theorem orReject_eq_ok {o : Option α} {a : α} : orReject r o = .ok a ↔ o = some a := by
  cases o <;> simp [orReject]

theorem check_eq_ok {ok : Bool} {u : Unit} : check r ok = .ok u ↔ ok = true := by
  cases ok <;> simp [check]

end Readings

/-- R103: an immediate whose form names n bits. -/
theorem immBits_eq_ok {n : Nat} (hn : n ≤ 18) {w : BitVec 32} {v : BitVec n} :
    immBits n w = .ok v ↔ immOf w = v.setWidth 18 := by
  have hback : (v.setWidth 18).setWidth n = v := by
    apply BitVec.eq_of_toNat_eq
    have hlt : v.toNat < 2 ^ 18 := v.isLt.trans_le (Nat.pow_le_pow_right (by decide) hn)
    rw [BitVec.toNat_setWidth, BitVec.toNat_setWidth, Nat.mod_eq_of_lt hlt, Nat.mod_eq_of_lt v.isLt]
  rw [immBits]
  constructor
  · intro h
    split at h
    case isTrue hw =>
      injection h with h
      rw [← h]
      exact hw
    case isFalse => cases h
  · intro h
    rw [h, hback, if_pos rfl]

theorem noIdx_eq_ok {w : BitVec 32} {u : Unit} : noIdx w = .ok u ↔ idxOf w = 0#3 := by simp [noIdx, check_eq_ok]

theorem noSub_eq_ok {w : BitVec 32} {u : Unit} : noSub w = .ok u ↔ subOf w = 0#3 := by simp [noSub, check_eq_ok]

theorem noImm_eq_ok {w : BitVec 32} {u : Unit} : noImm w = .ok u ↔ immOf w = 0#18 := by simp [noImm, check_eq_ok]

theorem noIdxSub_eq_ok {w : BitVec 32} {u : Unit} : noIdxSub w = .ok u ↔ idxOf w = 0#3 ∧ subOf w = 0#3 := by
  simp [noIdxSub, except_bind_eq_ok, noIdx_eq_ok, noSub_eq_ok]

/-! Codes (R90, R102, R104, R105): each reading is the inverse of its code. -/

theorem chOf_eq_some {v : BitVec 3} {ch : Ch} : chOf v = some ch ↔ chCode ch = v := by
  cases ch <;> revert v <;> decide

theorem ckModeOf_eq_some {v : BitVec 2} {m : CkMode} : ckModeOf v = some m ↔ ckModeCode m = v := by
  cases m <;> revert v <;> decide

theorem slotOf_eq {v : BitVec 3} {k : Slot} : slotOf v = k ↔ slotCode k = v := by cases k <;> revert v <;> decide

theorem coeffOf_eq_some {v : BitVec 3} {c : Coeff} : coeffOf v = some c ↔ coeffCode c = v := by
  cases c <;> revert v <;> decide

theorem pidParamOf_eq_some {v : BitVec 3} {p : PidParam} : pidParamOf v = some p ↔ pidParamCode p = v := by
  cases p <;> revert v <;> decide

theorem shParamOf_eq_some {v : BitVec 3} {p : ShParam} : shParamOf v = some p ↔ shParamCode p = v := by
  cases p <;> revert v <;> decide

theorem roleOf_eq_some {v : BitVec 3} {r : Role} : roleOf v = some r ↔ roleCode r = v := by cases r <;> revert v <;> decide

theorem centerSelOf_eq_some {v : BitVec 3} {c : CenterSel} : centerSelOf v = some c ↔ centerSelCode c = v := by
  cases c <;> revert v <;> decide

theorem limitOf_eq_some {v : BitVec 3} {l : Limit} : limitOf v = some l ↔ limitCode l = v := by
  cases l <;> revert v <;> decide

theorem sourceOf_eq_some {v : BitVec 5} {s : Source} : sourceOf v = some s ↔ sourceCode s = v := by
  cases s with
  | const => revert v; decide
  | temp ch => cases ch <;> revert v <;> decide
  | filter k => cases k <;> revert v <;> decide

/-! The immediate forms (R103). -/

section Forms
variable {w : BitVec 32}

theorem decMode_eq_ok {m : CkMode} : decMode w = .ok m ↔ immOf w = (ckModeCode m).setWidth 18 := by
  simp [decMode, except_bind_eq_ok, immBits_eq_ok, orReject_eq_ok, ckModeOf_eq_some]

theorem decFlag_eq_ok {f : Bool} : decFlag w = .ok f ↔ immOf w = flagImm f := by
  have hbit : ∀ v : BitVec 1, (v == 1#1) = f ↔ v.setWidth 18 = flagImm f := by cases f <;> decide
  simp only [decFlag, except_bind_eq_ok, immBits_eq_ok (by decide : 1 ≤ 18), Except.ok.injEq, hbit]
  exact ⟨fun ⟨v, hw, hv⟩ => hw.trans hv, fun h => ⟨if f then 1#1 else 0#1, by cases f <;> exact ⟨h, rfl⟩⟩⟩

theorem decAddr_eq_ok {legal : RegAddr → Bool} {a : RegAddr} :
    decAddr legal w = .ok a ↔ immOf w = a.setWidth 18 ∧ legal a = true := by
  simp only [decAddr, except_bind_eq_ok, immBits_eq_ok (by decide : 6 ≤ 18), check_eq_ok, Except.ok.injEq]
  exact ⟨fun ⟨_, hw, _, hl, ha⟩ => ha ▸ ⟨hw, hl⟩, fun ⟨hw, hl⟩ => ⟨a, hw, (), hl, rfl⟩⟩

/-- The two input selectors side by side. -/
theorem append_eq_iff {v : BitVec 10} {p n : BitVec 5} : v.extractLsb' 0 5 = p ∧ v.extractLsb' 5 5 = n ↔ v = n ++ p := by
  constructor
  · rintro ⟨rfl, rfl⟩
    apply BitVec.eq_of_getLsbD_eq
    intro i hi
    simp only [BitVec.getLsbD_append, BitVec.getLsbD_extractLsb']
    by_cases h : i < 5
    · simp [h]
    · have h2 : i - 5 < 5 := by omega
      have h3 : 5 + (i - 5) = i := by omega
      simp [h, h2, h3]
  · rintro rfl
    constructor <;> apply BitVec.eq_of_getLsbD_eq <;> intro i hi <;>
      rw [BitVec.getLsbD_extractLsb', BitVec.getLsbD_append] <;> simp [hi, Nat.add_comm]

theorem decInputs_eq_ok {t : RegTable} {q : BitVec 5 × BitVec 5} :
    decInputs t w = .ok q ↔
      immOf w = (q.2 ++ q.1).setWidth 18 ∧ (t.selectorLegal q.1 && t.selectorLegal q.2) = true := by
  obtain ⟨p, n⟩ := q
  simp only [decInputs, except_bind_eq_ok, immBits_eq_ok (by decide : 10 ≤ 18), check_eq_ok, Except.ok.injEq, Prod.mk.injEq]
  constructor
  · rintro ⟨v, hw, _, hl, rfl, rfl⟩
    rw [← append_eq_iff.mp ⟨rfl, rfl⟩]
    exact ⟨hw, hl⟩
  · rintro ⟨hw, hl⟩
    obtain ⟨hp, hn⟩ := append_eq_iff.mpr (rfl : n ++ p = n ++ p)
    exact ⟨n ++ p, hw, (), by rwa [hp, hn], hp, hn⟩

/-- R103: four bits of an optional code: a valid bit over the code, and code 0 when it is not valid. -/
theorem optImm_some_iff {v : BitVec 4} {c : BitVec 3} :
    v.getLsbD 3 = true ∧ v.extractLsb' 0 3 = c ↔ v.setWidth 18 = optImm (some c) := by
  revert v c; decide

theorem optImm_none_iff {v : BitVec 4} :
    v.getLsbD 3 = false ∧ v.extractLsb' 0 3 = 0#3 ↔ v.setWidth 18 = optImm none := by
  revert v; decide

theorem exists_optImm (o : Option (BitVec 3)) : ∃ v : BitVec 4, v.setWidth 18 = optImm o := by
  cases o with
  | none => exact ⟨0#4, rfl⟩
  | some c => exact ⟨1#1 ++ c, rfl⟩

/-- An optional code read from its four bits, by whatever is made of a valid one. -/
theorem optional_eq_ok {α : Type} {f : BitVec 3 → Except Reject (Option α)} {code : α → BitVec 3} {legal : α → Prop}
    (hf : ∀ c o, f c = .ok o ↔ ∃ a, o = some a ∧ code a = c ∧ legal a) {v : BitVec 4} {o : Option α} :
    (if v.getLsbD 3 then f (v.extractLsb' 0 3) else check .imm (v.extractLsb' 0 3 == 0#3) >>= fun _ => .ok none) = .ok o ↔
      v.setWidth 18 = optImm (o.map code) ∧ ∀ a ∈ o, legal a := by
  cases hv : v.getLsbD 3 with
  | true =>
    rw [if_pos rfl, hf]
    constructor
    · rintro ⟨a, rfl, ha, hl⟩
      exact ⟨optImm_some_iff.mp ⟨hv, ha.symm⟩, by simpa using hl⟩
    · rintro ⟨ho, hl⟩
      cases o with
      | none => exact absurd (optImm_none_iff.mpr ho).1 (by rw [hv]; decide)
      | some a => exact ⟨a, rfl, (optImm_some_iff.mpr ho).2.symm, hl a rfl⟩
  | false =>
    rw [if_neg Bool.false_ne_true]
    simp only [except_bind_eq_ok, check_eq_ok, beq_iff_eq, Except.ok.injEq, exists_const]
    constructor
    · rintro ⟨h0, rfl⟩
      exact ⟨optImm_none_iff.mp ⟨hv, h0⟩, by simp⟩
    · rintro ⟨ho, -⟩
      cases o with
      | none => exact ⟨(optImm_none_iff.mpr ho).2, rfl⟩
      | some a => exact absurd (optImm_some_iff.mpr ho).1 (by rw [hv]; decide)

theorem decPostfilter_eq_ok {T : AdcTables} {o : Option (BitVec 3)} :
    decPostfilter T w = .ok o ↔ immOf w = optImm o ∧ T.postfilterOperandLegal o = true := by
  have hf : ∀ c o, (check .imm (T.postfilterLegal c) >>= fun _ => Except.ok (some c)) = .ok o ↔
      ∃ a, o = some a ∧ a = c ∧ T.postfilterLegal a = true := by
    intro c o
    simp only [except_bind_eq_ok, check_eq_ok, Except.ok.injEq, exists_const]
    exact ⟨fun ⟨hl, ho⟩ => ⟨c, ho.symm, rfl, hl⟩, fun ⟨a, ho, ha, hl⟩ => ha ▸ ⟨hl, ho.symm⟩⟩
  have hlegal : T.postfilterOperandLegal o = true ↔ ∀ a ∈ o, T.postfilterLegal a = true := by
    cases o <;> simp [AdcTables.postfilterOperandLegal]
  simp only [decPostfilter, except_bind_eq_ok, immBits_eq_ok (by decide : 4 ≤ 18)]
  simp only [optional_eq_ok (code := id) hf, Option.map_id, id, hlegal]
  obtain ⟨v, hv⟩ := exists_optImm o
  exact ⟨fun ⟨v, hw, ho, hl⟩ => ⟨hw.trans ho, hl⟩, fun ⟨hw, hl⟩ => ⟨v, hw.trans hv.symm, hv, hl⟩⟩

theorem decMtxSel_eq_ok {o : Option Slot} : decMtxSel w = .ok o ↔ immOf w = optImm (o.map slotCode) := by
  have hf : ∀ c (o : Option Slot), (Except.ok (some (slotOf c)) : Except Reject (Option Slot)) = .ok o ↔
      ∃ a, o = some a ∧ slotCode a = c ∧ True := by
    intro c o
    simp only [Except.ok.injEq, and_true]
    exact ⟨fun ho => ⟨_, ho.symm, slotOf_eq.mp rfl⟩, fun ⟨a, ho, ha⟩ => by rw [ho, slotOf_eq.mpr ha]⟩
  simp only [decMtxSel, except_bind_eq_ok, immBits_eq_ok (by decide : 4 ≤ 18)]
  simp only [optional_eq_ok hf, implies_true, and_true]
  obtain ⟨v, hv⟩ := exists_optImm (o.map slotCode)
  exact ⟨fun ⟨v, hw, ho⟩ => hw.trans ho, fun hw => ⟨v, hw.trans hv.symm, hv⟩⟩

theorem decSource_eq_ok {s : Source} : decSource w = .ok s ↔ immOf w = (sourceCode s).setWidth 18 := by
  simp [decSource, except_bind_eq_ok, immBits_eq_ok, orReject_eq_ok, sourceOf_eq_some]

end Forms

/-! The rows of the opcode map by the fields they use (R105). -/

section Rows
variable {w : BitVec 32} {i : Instr} {α : Type}

theorem decCh_eq_ok {ch : Ch} : decCh w = .ok ch ↔ idxOf w = chCode ch := by
  rw [decCh, orReject_eq_ok, chOf_eq_some, eq_comm]

theorem plain_eq_ok {j : Instr} :
    plain j w = .ok i ↔ i = j ∧ idxOf w = 0#3 ∧ subOf w = 0#3 ∧ immOf w = 0#18 := by
  simp only [plain, except_bind_eq_ok, noIdxSub_eq_ok, noImm_eq_ok, Except.ok.injEq, exists_const, eq_comm (a := j)]
  tauto

theorem chOnly_eq_ok {f : Ch → Instr} :
    chOnly f w = .ok i ↔ ∃ ch, i = f ch ∧ idxOf w = chCode ch ∧ subOf w = 0#3 ∧ immOf w = 0#18 := by
  simp only [chOnly, except_bind_eq_ok, decCh_eq_ok, noSub_eq_ok, noImm_eq_ok, Except.ok.injEq, exists_const,
    eq_comm (b := i)]
  exact exists_congr fun _ => by tauto

theorem chSub_eq_ok {f : Ch → α → Instr} {of : BitVec 3 → Option α} {code : α → BitVec 3}
    (hof : ∀ v a, of v = some a ↔ code a = v) :
    chSub f of w = .ok i ↔ ∃ ch a, i = f ch a ∧ idxOf w = chCode ch ∧ subOf w = code a ∧ immOf w = 0#18 := by
  simp only [chSub, except_bind_eq_ok, decCh_eq_ok, orReject_eq_ok, hof, noImm_eq_ok, Except.ok.injEq, exists_const,
    eq_comm (b := i), eq_comm (b := subOf w)]
  exact exists_congr fun _ => by
    rw [← exists_and_left]
    exact exists_congr fun _ => by tauto

theorem chImm_eq_ok {f : Ch → α → Instr} {dec : BitVec 32 → Except Reject α} :
    chImm f dec w = .ok i ↔ ∃ ch a, i = f ch a ∧ idxOf w = chCode ch ∧ subOf w = 0#3 ∧ dec w = .ok a := by
  simp only [chImm, except_bind_eq_ok, decCh_eq_ok, noSub_eq_ok, Except.ok.injEq, exists_const, eq_comm (b := i)]
  exact exists_congr fun _ => by
    rw [← exists_and_left, ← exists_and_left]
    exact exists_congr fun _ => by tauto

theorem immOnly_eq_ok {f : α → Instr} {dec : BitVec 32 → Except Reject α} :
    immOnly f dec w = .ok i ↔ ∃ a, i = f a ∧ idxOf w = 0#3 ∧ subOf w = 0#3 ∧ dec w = .ok a := by
  simp only [immOnly, except_bind_eq_ok, noIdxSub_eq_ok, Except.ok.injEq, exists_const, eq_comm (b := i)]
  rw [← exists_and_left]
  exact exists_congr fun _ => by tauto

theorem decField_eq_ok : decField w = .ok i ↔
    ∃ id : BitVec 8, i = .chReadField (idxOf w) id ∧ subOf w = 0#3 ∧ immOf w = id.setWidth 18 ∧
      fieldLegal (idxOf w) id = true := by
  simp only [decField, except_bind_eq_ok, noSub_eq_ok, immBits_eq_ok (by decide : 8 ≤ 18), orReject_eq_ok, check_eq_ok,
    Except.ok.injEq, exists_const, eq_comm (b := i)]
  rw [← exists_and_left]
  refine exists_congr fun id => ?_
  cases hid : fieldClass id <;> simp [fieldLegal, hid]
  tauto

end Rows

/-! The opcode map (R105, R107). -/

section Words
variable {T : AdcTables} {w : BitVec 32} {i : Instr}

/-- A command word from its fields, the opcode as the decoder reads it. -/
theorem cmdWord_of_fields {opc : BitVec 8} {idx sub : BitVec 3} {imm : BitVec 18} (hopc : (opcOf w).toNat = opc.toNat)
    (hidx : idxOf w = idx) (hsub : subOf w = sub) (himm : immOf w = imm) : cmdWord opc idx sub imm = .cmd32 w :=
  cmdWord_eq_iff.mpr ⟨BitVec.eq_of_toNat_eq hopc, hidx, hsub, himm⟩

theorem mtxSetCoeff_eq_ok :
    (orReject .sub (coeffOf (subOf w)) >>= fun c => noImm w >>= fun _ => Except.ok (.mtxSetCoeff (slotOf (idxOf w)) c)) = .ok i ↔
      ∃ c, i = .mtxSetCoeff (slotOf (idxOf w)) c ∧ subOf w = coeffCode c ∧ immOf w = 0#18 := by
  simp only [except_bind_eq_ok, orReject_eq_ok, coeffOf_eq_some, noImm_eq_ok, Except.ok.injEq, exists_const, eq_comm (b := i),
    eq_comm (b := subOf w)]
  exact exists_congr fun _ => by tauto

theorem mtxSetSource_eq_ok :
    (orReject .sub (roleOf (subOf w)) >>= fun r => decSource w >>= fun s =>
      Except.ok (.mtxSetSource (slotOf (idxOf w)) r s)) = .ok i ↔
      ∃ r s, i = .mtxSetSource (slotOf (idxOf w)) r s ∧ subOf w = roleCode r ∧ immOf w = (sourceCode s).setWidth 18 := by
  simp only [except_bind_eq_ok, orReject_eq_ok, roleOf_eq_some, decSource_eq_ok, Except.ok.injEq, eq_comm (b := i),
    eq_comm (b := subOf w)]
  refine exists_congr fun _ => ?_
  rw [← exists_and_left]
  exact exists_congr fun _ => by tauto

/-- R106, R107: a command word that decodes is the encoding of a well-formed command. -/
theorem encode_of_decodeCmd (h : decodeCmd T w = .ok i) : encode i = .cmd32 w ∧ i.wellFormed T = true := by
  unfold decodeCmd at h
  split at h
  case h_49 => cases h
  case h_3 hopc | h_4 hopc | h_8 hopc | h_11 hopc | h_15 hopc | h_16 hopc | h_17 hopc | h_18 hopc | h_30 hopc | h_47 hopc |
      h_48 hopc =>
    obtain ⟨rfl, hidx, hsub, himm⟩ := plain_eq_ok.mp h
    exact ⟨cmdWord_of_fields hopc hidx hsub himm, rfl⟩
  case h_12 hopc | h_13 hopc | h_19 hopc | h_20 hopc | h_21 hopc | h_22 hopc | h_24 hopc | h_25 hopc | h_27 hopc | h_29 hopc |
      h_33 hopc | h_34 hopc | h_35 hopc | h_36 hopc | h_37 hopc | h_38 hopc | h_45 hopc =>
    obtain ⟨ch, rfl, hidx, hsub, himm⟩ := chOnly_eq_ok.mp h
    exact ⟨cmdWord_of_fields hopc hidx hsub himm, rfl⟩
  case h_1 hopc | h_9 hopc =>
    obtain ⟨m, rfl, hidx, hsub, hm⟩ := immOnly_eq_ok.mp h
    exact ⟨cmdWord_of_fields hopc hidx hsub (decMode_eq_ok.mp hm), rfl⟩
  case h_2 hopc =>
    obtain ⟨b, rfl, hidx, hsub, hb⟩ := immOnly_eq_ok.mp h
    exact ⟨cmdWord_of_fields hopc hidx hsub ((immBits_eq_ok (by decide)).mp hb), rfl⟩
  case h_5 hopc | h_6 hopc | h_7 hopc =>
    obtain ⟨a, rfl, hidx, hsub, ha⟩ := immOnly_eq_ok.mp h
    obtain ⟨himm, hlegal⟩ := decAddr_eq_ok.mp ha
    exact ⟨cmdWord_of_fields hopc hidx hsub himm, hlegal⟩
  case h_10 hopc =>
    obtain ⟨ch, q, rfl, hidx, hsub, hq⟩ := chImm_eq_ok.mp h
    obtain ⟨himm, hlegal⟩ := decInputs_eq_ok.mp hq
    exact ⟨cmdWord_of_fields hopc hidx hsub himm, hlegal⟩
  case h_14 hopc =>
    obtain ⟨ch, o, rfl, hidx, hsub, ho⟩ := chImm_eq_ok.mp h
    obtain ⟨himm, hlegal⟩ := decPostfilter_eq_ok.mp ho
    exact ⟨cmdWord_of_fields hopc hidx hsub himm, (wellFormed_adcSetPostfilter T ch o).trans hlegal⟩
  case h_23 hopc =>
    obtain ⟨ch, p, rfl, hidx, hsub, himm⟩ := (chSub_eq_ok fun _ _ => shParamOf_eq_some).mp h
    exact ⟨cmdWord_of_fields hopc hidx hsub himm, rfl⟩
  case h_26 hopc =>
    obtain ⟨ch, p, rfl, hidx, hsub, himm⟩ := (chSub_eq_ok fun _ _ => pidParamOf_eq_some).mp h
    exact ⟨cmdWord_of_fields hopc hidx hsub himm, rfl⟩
  case h_28 hopc =>
    obtain ⟨ch, c, rfl, hidx, hsub, himm⟩ := (chSub_eq_ok fun _ _ => coeffOf_eq_some).mp h
    exact ⟨cmdWord_of_fields hopc hidx hsub himm, rfl⟩
  case h_39 hopc =>
    obtain ⟨ch, c, rfl, hidx, hsub, himm⟩ := (chSub_eq_ok fun _ _ => centerSelOf_eq_some).mp h
    exact ⟨cmdWord_of_fields hopc hidx hsub himm, rfl⟩
  case h_44 hopc =>
    obtain ⟨ch, l, rfl, hidx, hsub, himm⟩ := (chSub_eq_ok fun _ _ => limitOf_eq_some).mp h
    exact ⟨cmdWord_of_fields hopc hidx hsub himm, rfl⟩
  case h_31 hopc =>
    obtain ⟨c, rfl, hsub, himm⟩ := mtxSetCoeff_eq_ok.mp h
    exact ⟨cmdWord_of_fields hopc (slotOf_eq.mp rfl).symm hsub himm, rfl⟩
  case h_32 hopc =>
    obtain ⟨r, src, rfl, hsub, himm⟩ := mtxSetSource_eq_ok.mp h
    exact ⟨cmdWord_of_fields hopc (slotOf_eq.mp rfl).symm hsub himm, rfl⟩
  case h_40 hopc | h_41 hopc | h_43 hopc =>
    obtain ⟨ch, f, rfl, hidx, hsub, hf⟩ := chImm_eq_ok.mp h
    exact ⟨cmdWord_of_fields hopc hidx hsub (decFlag_eq_ok.mp hf), rfl⟩
  case h_42 hopc =>
    obtain ⟨ch, o, rfl, hidx, hsub, ho⟩ := chImm_eq_ok.mp h
    exact ⟨cmdWord_of_fields hopc hidx hsub (decMtxSel_eq_ok.mp ho), rfl⟩
  case h_46 hopc =>
    obtain ⟨id, rfl, hsub, himm, hlegal⟩ := decField_eq_ok.mp h
    exact ⟨cmdWord_of_fields hopc rfl hsub himm, hlegal⟩

/-- R105: the encoding of a well-formed command decodes to it. -/
theorem decodeCmd_of_encode (hw : encode i = .cmd32 w) (hlegal : i.wellFormed T = true) : decodeCmd T w = .ok i := by
  cases i
  case spiReadCmd | spiWriteCmd | spiResetFrame | dacWord => cases hw
  all_goals
    obtain ⟨hopc, hidx, hsub, himm⟩ := cmdWord_eq_iff.mp hw
    rw [decodeCmd, hopc]
  case ckResult | adcReset | adcIdentify | adcCalibrateOffset | adcPostfilterClosest | adcDataReady | adcReadData | adcInit |
      mtxTick | pollAdc | blockInit =>
    exact plain_eq_ok.mpr ⟨rfl, hidx, hsub, himm⟩
  case adcGetCalibration ch | adcGetPostfilter ch | dacInit ch | dacSetCode ch | dacSetVolts ch | shGetTemperature ch |
      pidUpdate ch | pidUpdateKi ch | iirTick ch | iirSetTarget ch | chConvertData ch | chSample ch | chGetTemperature ch |
      chSetI ch | chGetI ch | chSetDacVolts ch | chCalibrateDac ch =>
    exact chOnly_eq_ok.mpr ⟨ch, rfl, hidx, hsub, himm⟩
  case ckInit m | adcSetChecksumMode m => exact immOnly_eq_ok.mpr ⟨m, rfl, hidx, hsub, decMode_eq_ok.mpr himm⟩
  case ckFeed b => exact immOnly_eq_ok.mpr ⟨b, rfl, hidx, hsub, (immBits_eq_ok (by decide)).mpr himm⟩
  case adcReadReg a | adcWriteReg a | adcUpdateReg a =>
    exact immOnly_eq_ok.mpr ⟨a, rfl, hidx, hsub, decAddr_eq_ok.mpr ⟨himm, hlegal⟩⟩
  case adcSetupChannel ch p n =>
    exact chImm_eq_ok.mpr ⟨ch, (p, n), rfl, hidx, hsub, decInputs_eq_ok.mpr ⟨himm, hlegal⟩⟩
  case adcSetPostfilter ch o =>
    rw [wellFormed_adcSetPostfilter] at hlegal
    exact chImm_eq_ok.mpr ⟨ch, o, rfl, hidx, hsub, decPostfilter_eq_ok.mpr ⟨himm, hlegal⟩⟩
  case shSetParam ch p => exact (chSub_eq_ok fun _ _ => shParamOf_eq_some).mpr ⟨ch, p, rfl, hidx, hsub, himm⟩
  case pidSetParam ch p => exact (chSub_eq_ok fun _ _ => pidParamOf_eq_some).mpr ⟨ch, p, rfl, hidx, hsub, himm⟩
  case iirSetCoeff ch c => exact (chSub_eq_ok fun _ _ => coeffOf_eq_some).mpr ⟨ch, c, rfl, hidx, hsub, himm⟩
  case chSetCenter ch c => exact (chSub_eq_ok fun _ _ => centerSelOf_eq_some).mpr ⟨ch, c, rfl, hidx, hsub, himm⟩
  case chSetPwmLimit ch l => exact (chSub_eq_ok fun _ _ => limitOf_eq_some).mpr ⟨ch, l, rfl, hidx, hsub, himm⟩
  case mtxSetCoeff k c =>
    exact mtxSetCoeff_eq_ok.mpr ⟨c, by rw [slotOf_eq.mpr hidx.symm], hsub, himm⟩
  case mtxSetSource k r src =>
    exact mtxSetSource_eq_ok.mpr ⟨r, src, by rw [slotOf_eq.mpr hidx.symm], hsub, himm⟩
  case chSetPidEngaged ch f | chSetIirEngaged ch f | chSetTecEn ch f =>
    exact chImm_eq_ok.mpr ⟨ch, f, rfl, hidx, hsub, decFlag_eq_ok.mpr himm⟩
  case chSetMtxSel ch o => exact chImm_eq_ok.mpr ⟨ch, o, rfl, hidx, hsub, decMtxSel_eq_ok.mpr himm⟩
  case chReadField idx id => exact decField_eq_ok.mpr ⟨id, by rw [hidx], hsub, himm, by rw [hidx]; exact hlegal⟩

theorem decodeCmd_eq_ok : decodeCmd T w = .ok i ↔ encode i = .cmd32 w ∧ i.wellFormed T = true :=
  ⟨encode_of_decodeCmd, fun ⟨hw, hlegal⟩ => decodeCmd_of_encode hw hlegal⟩

end Words

/-! The wire formats. -/

/-- R82: WEN is 0, and bit 6 selects the row. -/
theorem encode_of_decodeSpi8 {T : AdcTables} {b : BitVec 8} {i : Instr} (h : decodeSpi8 b = .ok i) :
    encode i = .spi8 b ∧ i.wellFormed T = true := by
  have hread : ∀ b : BitVec 8, b.getLsbD 7 = false → b.getLsbD 6 = true → readCmdByte (b.extractLsb' 0 6) = b := by decide
  have hwrite : ∀ b : BitVec 8, b.getLsbD 7 = false → b.getLsbD 6 = false → writeCmdByte (b.extractLsb' 0 6) = b := by decide
  rw [decodeSpi8] at h
  cases h7 : b.getLsbD 7 with
  | true =>
    rw [h7, if_pos rfl] at h
    cases h
  | false =>
    rw [h7, if_neg Bool.false_ne_true] at h
    cases h6 : b.getLsbD 6 with
    | true =>
      rw [h6, if_pos rfl] at h
      cases h
      exact ⟨congrArg Raw.spi8 (hread b h7 h6), rfl⟩
    | false =>
      rw [h6, if_neg Bool.false_ne_true] at h
      cases h
      exact ⟨congrArg Raw.spi8 (hwrite b h7 h6), rfl⟩

theorem decodeSpi8_readCmdByte (a : RegAddr) : decodeSpi8 (readCmdByte a) = .ok (.spiReadCmd a) := by revert a; decide

theorem decodeSpi8_writeCmdByte (a : RegAddr) : decodeSpi8 (writeCmdByte a) = .ok (.spiWriteCmd a) := by revert a; decide

/-- R100: the padding, and the code between it. -/
theorem dacWord_eq_iff {w : BitVec 24} {c : DacCode} :
    0#4 ++ c ++ 0#2 = w ↔ (w.extractLsb' 20 4 = 0#4 ∧ w.extractLsb' 0 2 = 0#2) ∧ w.extractLsb' 2 18 = c := by
  constructor
  · rintro rfl
    refine ⟨⟨?_, ?_⟩, ?_⟩ <;> apply BitVec.eq_of_getLsbD_eq <;> intro i hi <;>
      simp only [BitVec.getLsbD_extractLsb', BitVec.getLsbD_append]
    · have h1 : ¬ 20 + i < 2 := by omega
      have h2 : ¬ 20 + i - 2 < 18 := by omega
      simp [h1, h2]
    · simp [hi]
    · have h1 : ¬ 2 + i < 2 := by omega
      have h2 : 2 + i - 2 = i := by omega
      simp [h1, h2, hi]
  · rintro ⟨⟨hhigh, hlow⟩, rfl⟩
    rw [← hhigh, ← hlow]
    apply BitVec.eq_of_getLsbD_eq
    intro i hi
    simp only [BitVec.getLsbD_append, BitVec.getLsbD_extractLsb']
    rcases (by omega : i < 2 ∨ 2 ≤ i ∧ i < 20 ∨ 20 ≤ i) with h | ⟨h, h'⟩ | h
    · simp [h]
    · have h1 : ¬ i < 2 := by omega
      have h2 : i - 2 < 18 := by omega
      have h3 : 2 + (i - 2) = i := by omega
      simp [h1, h2, h3]
    · have h1 : ¬ i < 2 := by omega
      have h2 : ¬ i - 2 < 18 := by omega
      have h3 : i - 2 - 18 < 4 := by omega
      have h4 : 20 + (i - 2 - 18) = i := by omega
      simp [h1, h2, h3, h4]

/-! All four formats. -/

/-- R106, R107: whatever the format, decoding and encoding are each other's inverse on the well-formed instructions. -/
theorem decode_eq_ok {T : AdcTables} {raw : Raw} {i : Instr} :
    decode T raw = .ok i ↔ encode i = raw ∧ i.wellFormed T = true := by
  cases raw with
  | cmd32 w => exact decodeCmd_eq_ok
  | spi8 b =>
    refine ⟨encode_of_decodeSpi8, ?_⟩
    rintro ⟨hb, -⟩
    cases i
    case spiReadCmd a => cases hb; exact decodeSpi8_readCmdByte a
    case spiWriteCmd a => cases hb; exact decodeSpi8_writeCmdByte a
    all_goals cases hb
  | reset64 w =>
    rw [decode, decodeReset64]
    constructor
    · intro h
      split at h
      case isTrue hw => cases h; exact ⟨congrArg Raw.reset64 hw.symm, rfl⟩
      case isFalse => cases h
    · rintro ⟨hw, -⟩
      cases i
      case spiResetFrame => cases hw; rfl
      all_goals cases hw
  | dac24 w =>
    rw [decode, decodeDac24]
    constructor
    · intro h
      split at h
      case isTrue hw => cases h; exact ⟨congrArg Raw.dac24 (dacWord_eq_iff.mpr ⟨hw, rfl⟩), rfl⟩
      case isFalse => cases h
    · rintro ⟨hw, -⟩
      cases i
      case dacWord c =>
        obtain ⟨hpad, hc⟩ := dacWord_eq_iff.mp (Raw.dac24.inj hw)
        rw [if_pos hpad, hc]
      all_goals cases hw

/-- Settles O1: `decode_eq_ok` read from right to left. -/
theorem decodeOfEncode : Obligations.DecodeOfEncode := by
  unfold Obligations.DecodeOfEncode
  exact fun _ _ hlegal => decode_eq_ok.mpr ⟨rfl, hlegal⟩

/-- Settles O2: `decode_eq_ok` read from left to right. -/
theorem encodeOfDecode : Obligations.EncodeOfDecode := by
  unfold Obligations.EncodeOfDecode
  exact fun _ _ _ h => decode_eq_ok.mp h

end Sys2Proof.Machine
end

section
/-! What an instruction can do to the block (10_state.md R49), once for all: the table of who writes what, and every change of the
block an instruction makes as one of a list of effects. Claims about every instruction look at the effects, not at the
instructions. -/

namespace Sys2Proof.Machine

open Safety

/-! Who writes what. -/

/-- The parts of a channel record that R49 tells apart: `calResults` are the outcomes of CH_CALIBRATE_DAC, `samples` what CH_SAMPLE
stores, `cal` the ADC's calibration. -/
inductive ChField where
  | pid
  | iir
  | sh
  | pwm
  | center
  | calResults
  | samples
  | pidEngaged
  | iirEngaged
  | mtxSel
  | tecEn
  | dacCode
  | cal

/-- The parts of the block that R49 tells apart: `id` is the ADC's ID with its retry counter. -/
inductive Field where
  | phase
  | ck
  | ckmode
  | id
  | mtx
  | rcWrite
  | rcRead
  | ch (c : Ch) (x : ChField)

/-- The part of the record is as it was. -/
def ChField.Same : ChField → Channel → Channel → Prop
  | .pid, c, d => d.pid = c.pid
  | .iir, c, d => d.iir = c.iir
  | .sh, c, d => d.sh = c.sh
  | .pwm, c, d => d.pwm = c.pwm
  | .center, c, d => d.center = c.center
  | .calResults, c, d => d.vrefMeas = c.vrefMeas ∧ d.dacFs = c.dacFs ∧ d.calFailed = c.calFailed
  | .samples, c, d => d.adcData = c.adcData ∧ d.adcTime = c.adcTime ∧ d.adcInterval = c.adcInterval
  | .pidEngaged, c, d => d.pidEngaged = c.pidEngaged
  | .iirEngaged, c, d => d.iirEngaged = c.iirEngaged
  | .mtxSel, c, d => d.mtxSel = c.mtxSel
  | .tecEn, c, d => d.tecEn = c.tecEn
  | .dacCode, c, d => d.dacCode = c.dacCode
  | .cal, c, d => d.cal = c.cal

/-- The part of the block is as it was. -/
def Field.Same : Field → Block → Block → Prop
  | .phase, b, c => c.phase = b.phase
  | .ck, b, c => c.ck = b.ck
  | .ckmode, b, c => c.ckmode = b.ckmode
  | .id, b, c => c.adcId = b.adcId ∧ c.rc.id = b.rc.id
  | .mtx, b, c => c.mtx = b.mtx
  | .rcWrite, b, c => c.rc.write = b.rc.write
  | .rcRead, b, c => c.rc.read = b.rc.read
  | .ch i x, b, c => x.Same (b.ch.get i) (c.ch.get i)

/-- R49: the instructions that write a part of channel c's record. -/
def WritesCh (i : Instr) (c : Ch) : ChField → Prop
  | .pid => i = .pidUpdate c ∨ i = .pidUpdateKi c ∨ (∃ p, i = .pidSetParam c p) ∨ i = .pollAdc
  | .iir => i = .iirTick c ∨ (∃ k, i = .iirSetCoeff c k) ∨ i = .iirSetTarget c ∨ i = .pollAdc
  | .sh => ∃ p, i = .shSetParam c p
  | .pwm => ∃ l, i = .chSetPwmLimit c l
  | .center => ∃ p, i = .chSetCenter c p
  | .calResults => i = .chCalibrateDac c ∨ i = .blockInit
  | .samples => i = .chSample c ∨ i = .pollAdc
  | .pidEngaged => i = .chSetI c ∨ i = .chSetDacVolts c ∨ ∃ f, i = .chSetPidEngaged c f
  | .iirEngaged => i = .chSetI c ∨ i = .chSetDacVolts c ∨ ∃ f, i = .chSetIirEngaged c f
  | .mtxSel => i = .chSetI c ∨ i = .chSetDacVolts c ∨ ∃ k, i = .chSetMtxSel c k
  | .tecEn => (∃ f, i = .chSetTecEn c f) ∨ i = .pollAdc ∨ i = .blockInit
  | .dacCode => i = .dacSetCode c ∨ i = .dacSetVolts c ∨ i = .chSetI c ∨ i = .chSetDacVolts c ∨ (∃ p, i = .chSetCenter c p) ∨
      i = .chCalibrateDac c ∨ i = .pollAdc ∨ i = .blockInit ∨ ∃ v, i = .dacWord v
  | .cal => i = .adcGetCalibration c ∨ i = .adcInit ∨ i = .blockInit

/-- R49: the instructions that write a part of the block. -/
def Writes (i : Instr) : Field → Prop
  | .phase => i = .adcInit ∨ i = .blockInit
  | .ck => (∃ m, i = .ckInit m) ∨ ∃ b, i = .ckFeed b
  | .ckmode => i = .adcReset ∨ (∃ m, i = .adcSetChecksumMode m) ∨ i = .adcInit ∨ i = .blockInit ∨ i = .spiResetFrame
  | .id => i = .adcIdentify ∨ i = .adcInit ∨ i = .blockInit
  | .mtx => i = .mtxTick ∨ (∃ k c, i = .mtxSetCoeff k c) ∨ (∃ k r c, i = .mtxSetSource k r c) ∨ i = .pollAdc
  | .rcWrite => (∃ a, i = .adcWriteReg a) ∨ (∃ a, i = .adcUpdateReg a) ∨ (∃ m, i = .adcSetChecksumMode m) ∨
      (∃ ch p n, i = .adcSetupChannel ch p n) ∨ i = .adcCalibrateOffset ∨ (∃ ch c, i = .adcSetPostfilter ch c) ∨
      i = .adcInit ∨ i = .blockInit
  | .rcRead => readsAdcRegister i = true
  | .ch c x => WritesCh i c x

/-! The effects. -/

/-- An event of a transfer to the ADC, answered or failed. -/
def OnAdc : Event → Prop
  | .spi .adc _ _ => True
  | .spiFail .adc _ => True
  | _ => False

/-- An event of a feedback sample, answered or failed. -/
def OnSampler : Event → Prop
  | .fb _ _ _ => True
  | .fbFail _ _ => True
  | _ => False

/-- One thing instruction i can do to block b: a frame on the ADC port, a feedback sample, a frame on a DAC's port or its sync pin
driven, a driver enabled or disabled, or a write that R49 allows it. -/
inductive Effect (i : Instr) (b : Block) : Block → Prop where
  | frame (evs : List Event) (script : List Answer) (ports : Nat) (h : ∀ e ∈ evs, OnAdc e) :
      Effect i b { b with nss := .high, script := script, ports := ports
                          hist := .pin .nssAdc .high :: (evs ++ .pin .nssAdc .low :: b.hist) }
  | feedback (e : Event) (script : List Answer) (ports : Nat) (h : OnSampler e) :
      Effect i b { b with script := script, ports := ports, hist := e :: b.hist }
  | dacSent (ch : Ch) (v : DacCode) (a : Answer) (rest : List Answer) (h : Writes i (.ch ch .dacCode)) :
      Effect i b (afterDac b ch v a rest)
  | dacFailed (ch : Ch) (v : DacCode) (rest : List Answer) : Effect i b (afterDacFail b ch v rest)
  | dacInit (ch : Ch) : Effect i b (afterDacInit b ch)
  | tecEn (ch : Ch) (f : Bool) (h : Writes i (.ch ch .tecEn)) : Effect i b (afterTec b ch f)
  | bumpRead (h : Writes i .rcRead) : Effect i b b.bumpRead
  | bumpWrite (h : Writes i .rcWrite) : Effect i b b.bumpWrite
  | bumpId (h : Writes i .id) : Effect i b b.bumpId
  | adcId (id : BitVec 16) (h : Writes i .id) (hid : b.cfg.ofFamily id = true) : Effect i b (b.setAdcId id)
  | phase (p : Phase) (h : Writes i .phase) : Effect i b (b.setPhase p)
  | ck (c : Checksum) (h : Writes i .ck) : Effect i b (b.setCk c)
  | ckmode (m : CkMode) (h : Writes i .ckmode) : Effect i b (b.setCkmode m)
  | mtx (m : PerSlot MtxSlot) (h : Writes i .mtx) : Effect i b (b.setMtx m)
  | capture (ch : Ch) (k : AdcCal) (h : Writes i (.ch ch .cal)) : Effect i b (b.updCh ch (Channel.captureCal k))
  | pid (ch : Ch) (p : Pid) (h : Writes i (.ch ch .pid)) : Effect i b (b.updCh ch (fun c => { c with pid := p }))
  | iir (ch : Ch) (f : Iir) (h : Writes i (.ch ch .iir)) : Effect i b (b.updCh ch (fun c => { c with iir := f }))
  | sh (ch : Ch) (p : ShParams) (h : Writes i (.ch ch .sh)) : Effect i b (b.updCh ch (fun c => { c with sh := p }))
  | pwm (ch : Ch) (p : PwmLimits) (h : Writes i (.ch ch .pwm)) : Effect i b (b.updCh ch (fun c => { c with pwm := p }))
  | center (ch : Ch) (p : Center) (h : Writes i (.ch ch .center)) : Effect i b (b.updCh ch (fun c => { c with center := p }))
  | pidEngaged (ch : Ch) (f : Bool) (h : Writes i (.ch ch .pidEngaged)) :
      Effect i b (b.updCh ch (fun c => { c with pidEngaged := f }))
  | iirEngaged (ch : Ch) (f : Bool) (h : Writes i (.ch ch .iirEngaged)) :
      Effect i b (b.updCh ch (fun c => { c with iirEngaged := f }))
  | mtxSel (ch : Ch) (k : Option Slot) (h : Writes i (.ch ch .mtxSel)) :
      Effect i b (b.updCh ch (fun c => { c with mtxSel := k }))
  | disengage (ch : Ch) (hp : Writes i (.ch ch .pidEngaged)) (hi : Writes i (.ch ch .iirEngaged))
      (hm : Writes i (.ch ch .mtxSel)) : Effect i b (b.updCh ch Channel.disengage)
  | sampled (ch : Ch) (code : AdcCode) (now : BitVec 32) (h : Writes i (.ch ch .samples)) :
      Effect i b (b.updCh ch (fun c => c.sampled b.cfg.sentinel code now))
  | calCleared (ch : Ch) (h : Writes i (.ch ch .calResults)) : Effect i b (b.calCleared ch)
  | calibrated (ch : Ch) (m : CalMode) (target : F64) (best : Option DacCode) (h : Writes i (.ch ch .calResults)) :
      Effect i b (b.updCh ch (fun c => c.calibrated m target best))

/-- Any number of effects, one after the other. -/
abbrev Reach (i : Instr) : Block → Block → Prop := Relation.ReflTransGen (Effect i)

/-- The stops an instruction begun on b can come to: it pauses only where retries are unbounded, and only DAC_SET_CODE raises
DacRange. -/
def StopAllowed (i : Instr) (b : Block) : Stop → Prop
  | .paused => b.cfg.retryLimit = none
  | .raised (.dacRange _) => ∃ ch, i = .dacSetCode ch
  | .raised _ => True

/-- However x ends, it is a part of what instruction i can do. -/
abbrev Cmd.PartOf {α : Type} (i : Instr) (x : Cmd α) : Prop := x.Within (Reach i) (StopAllowed i)

theorem Effect.cfg {i : Instr} {b c : Block} (h : Effect i b c) : c.cfg = b.cfg := by cases h <;> rfl

theorem Reach.cfg {i : Instr} {b c : Block} (h : Reach i b c) : c.cfg = b.cfg := by
  induction h with
  | refl => rfl
  | tail _ he ih => exact he.cfg.trans ih

theorem frame_reach (i : Instr) : Cmd.Frame (Reach i) (StopAllowed i) := by
  refine ⟨fun _ => .refl, .trans, fun {a b e} h he => ?_⟩
  match e with
  | .paused => exact (congrArg Params.retryLimit h.cfg).symm.trans he
  | .raised (.dacRange _) => exact he
  | .raised (.transport _) | .raised (.illegalCommand _) | .raised (.conversionUnavailable _)
  | .raised (.retriesExhausted _) => trivial

/-! The constructs of a computation. -/

namespace Cmd.PartOf

variable {α β : Type} {i : Instr}

theorem pure (a : α) : (Pure.pure a : Cmd α).PartOf i := Cmd.Within.pure (frame_reach i) a

theorem look (f : Block → α) : (Machine.look f).PartOf i := Cmd.Within.look (frame_reach i) f

theorem update {f : Block → Block} (h : ∀ b, Effect i b (f b)) : (Machine.update f).PartOf i :=
  Cmd.Within.update (fun b => .single (h b))

theorem bind {x : Cmd α} {f : α → Cmd β} (hx : x.PartOf i) (hf : ∀ a, (f a).PartOf i) : (x >>= f).PartOf i :=
  Cmd.Within.bind (frame_reach i) hx hf

/-- A computation followed by an answer made of its own. -/
theorem map {x : Cmd α} {f : α → β} (hx : x.PartOf i) : (x >>= fun a => Pure.pure (f a)).PartOf i :=
  bind hx (fun _ => pure _)

theorem ite {p : Prop} [Decidable p] {x y : Cmd α} (hx : x.PartOf i) (hy : y.PartOf i) :
    (if p then x else y).PartOf i := by
  by_cases hp : p
  · rw [if_pos hp]; exact hx
  · rw [if_neg hp]; exact hy

/-! The ports and pins. -/

/-- The transfers of an ADC frame. -/
theorem adcParts_onAdc (parts : List (List Byte)) :
    (adcParts parts).Within
      (fun b c => ∃ evs script ports, (∀ e ∈ evs, OnAdc e) ∧
        c = { b with script := script, ports := ports, hist := evs ++ b.hist })
      (fun _ e => ∃ p, e = .raised (.transport p)) := by
  have hF : Cmd.Frame (fun b c : Block => ∃ evs script ports, (∀ e ∈ evs, OnAdc e) ∧
      c = { b with script := script, ports := ports, hist := evs ++ b.hist }) (fun _ e => ∃ p, e = .raised (.transport p)) := by
    refine ⟨fun b => ⟨[], b.script, b.ports, by simp, rfl⟩, ?_, fun _ h => h⟩
    rintro a _ _ ⟨evs, _, _, hevs, rfl⟩ ⟨evs', script, ports, hevs', rfl⟩
    exact ⟨evs' ++ evs, script, ports, List.forall_mem_append.mpr ⟨hevs', hevs⟩, by simp⟩
  induction parts with
  | nil => exact Cmd.Within.pure hF _
  | cons out parts ih =>
    refine Cmd.Within.bind hF (fun b => ?_) (fun _ => Cmd.Within.bind hF ih (fun _ => Cmd.Within.pure hF _))
    rw [run_spiXfer]
    cases b.nextAnswer.fails
    · exact ⟨[.spi .adc out _], _, _, by simp [OnAdc], rfl⟩
    · exact ⟨⟨[.spiFail .adc out], _, _, by simp [OnAdc], rfl⟩, _, rfl⟩

/-- R64: a frame is one effect, also when a transfer fails. -/
theorem adcFrame (parts : List (List Byte)) : (adcFrame parts).PartOf i := by
  intro b
  have hparts := adcParts_onAdc parts (b.drive .nssAdc .low)
  simp only [Machine.adcFrame, Cmd.run_bind, Cmd.run_pinSet, Cmd.run_onStop]
  cases hrun : adcParts parts (b.drive .nssAdc .low) with
  | ok inns c =>
    rw [hrun] at hparts
    obtain ⟨evs, script, ports, hevs, rfl⟩ := hparts
    exact .single (.frame evs script ports hevs)
  | error e c =>
    rw [hrun] at hparts
    obtain ⟨⟨evs, script, ports, hevs, rfl⟩, p, rfl⟩ := hparts
    exact ⟨.single (.frame evs script ports hevs), trivial⟩

theorem fbSample (ch : Ch) (src : FbSource) : (fbSample ch src).PartOf i := by
  intro b
  rw [run_fbSample]
  cases b.nextAnswer.fails
  · exact .single (.feedback (.fb ch src _) _ _ trivial)
  · exact ⟨.single (.feedback (.fbFail ch src) _ _ trivial), trivial⟩

/-- R155, R156. -/
theorem writeDac {ch : Ch} (h : Writes i (.ch ch .dacCode)) (v : DacCode) : (writeDac ch v).PartOf i := by
  intro b
  rw [run_writeDac]
  cases b.nextAnswer.fails
  · exact .single (.dacSent ch v _ _ h)
  · exact ⟨.single (.dacFailed ch v _), trivial⟩

theorem dacInit (ch : Ch) : (dacInit ch).PartOf i := fun b => by rw [run_dacInit]; exact .single (.dacInit ch)

theorem setTecEn {ch : Ch} (h : Writes i (.ch ch .tecEn)) (f : Bool) : (setTecEn ch f).PartOf i :=
  fun b => by rw [setTecEn_run]; exact .single (.tecEn ch f h)

theorem requireLegal (ok : Bool) : (requireLegal ok).PartOf i := by
  intro b
  rw [Cmd.run_requireLegal]
  cases ok
  · exact ⟨.refl, trivial⟩
  · exact .refl

/-- R219. -/
theorem retryLoop {loop : LoopId} {body : β → Cmd (Turn α β)} {v : β} (hb : ∀ v, (body v).PartOf i) :
    (retryLoop loop body v).PartOf i :=
  Cmd.Within.retryLoop (frame_reach i) hb (fun _ _ _ => trivial) (fun _ h => h) (fun _ _ h => by rw [h.cfg])

/-- The commands that read an ADC register. -/
theorem reads (h : Writes i .rcRead) : Cmd.Reads (Reach i) (StopAllowed i) :=
  ⟨frame_reach i, fun _ _ _ _ => trivial, fun _ h => h, fun _ _ h => by rw [h.cfg], adcFrame, fun _ => .single (.bumpRead h)⟩

/-! The calibration search (R208, R209), which reads no ADC register. -/

theorem stable (ch : Ch) (src : FbSource) : (stable ch src).PartOf i := by
  refine bind (fbSample ch src) (fun a => retryLoop fun v => bind (fbSample ch src) (fun b => bind (look _) (fun tol => ?_)))
  exact ite (pure _) (pure _)

theorem calTarget (ch : Ch) : (calTarget ch).PartOf i := by
  refine bind (look _) (fun mode => ?_)
  cases mode with
  | factor => exact look _
  | vrefBias => exact stable ch .vref

theorem sweep {ch : Ch} (h : Writes i (.ch ch .dacCode)) (target : F64) (step : Nat) :
    ∀ fuel v best, (sweep ch target step fuel v best).PartOf i
  | 0, _, _ => pure _
  | fuel + 1, v, best => by
    rw [Machine.sweep]
    exact ite (pure _) (bind (writeDac h _) (fun _ => bind (stable ch .dacFb) (fun fb =>
      ite (sweep h target step fuel _ _) (pure _))))

theorem passes {ch : Ch} (h : Writes i (.ch ch .dacCode)) (target : F64) : ∀ k best, (passes ch target k best).PartOf i
  | 0, _ => sweep h target _ _ _ _
  | k + 1, _ => bind (sweep h target _ _ _ _) (fun _ => passes h target k _)

theorem calibrateDac {ch : Ch} (h : Writes i (.ch ch .dacCode)) (hr : Writes i (.ch ch .calResults)) :
    (calibrateDac ch).PartOf i :=
  bind (update (fun _ => .calCleared ch hr)) (fun _ => bind (calTarget ch) (fun target => bind (look _) (fun k =>
    bind (passes h target k none) (fun best => bind (writeDac h _) (fun _ => bind (look _) (fun mode =>
      map (update (fun _ => .calibrated ch mode target best hr))))))))

/-! The larger commands. -/

theorem adcInit (hphase : Writes i .phase) (hmode : Writes i .ckmode) (hid : Writes i .id) (hwrite : Writes i .rcWrite)
    (hread : Writes i .rcRead) (hcal : ∀ ch, Writes i (.ch ch .cal)) : adcInit.PartOf i :=
  (reads hread).within_adcInit (fun _ => .single (.bumpWrite hwrite)) (fun _ m => .single (.ckmode m hmode))
    (fun _ => .single (.bumpId hid)) (fun _ id hf => .single (.adcId id hid hf)) (fun _ ch k => .single (.capture ch k (hcal ch)))
    (fun _ p => .single (.phase p hphase))

theorem operandCode : operandCode.PartOf i := bind (look _) (fun _ => bind (requireLegal _) (fun _ => pure _))

theorem operandRegValue (a : RegAddr) : (operandRegValue a).PartOf i :=
  bind (look _) (fun _ => bind (look _) (fun _ => bind (requireLegal _) (fun _ => pure _)))

theorem operandRegMask (a : RegAddr) : (operandRegMask a).PartOf i :=
  bind (look _) (fun _ => bind (look _) (fun _ => bind (requireLegal _) (fun _ => pure _)))

theorem sample {ch : Ch} (h : Writes i (.ch ch .samples)) (code : AdcCode) (now : BitVec 32) : (sample ch code now).PartOf i :=
  fun _ => .single (.sampled ch code now h)

theorem convertCode (ch : Ch) (code : AdcCode) : (convertCode ch code).PartOf i := by
  refine bind (look _) (fun cal => bind (look _) (fun p => ?_))
  cases cal with
  | none => exact Cmd.Within.raise (frame_reach i) (fun _ => trivial)
  | some k => exact pure _

/-- R198. -/
theorem setManual {ch : Ch} (hp : Writes i (.ch ch .pidEngaged)) (hi : Writes i (.ch ch .iirEngaged))
    (hm : Writes i (.ch ch .mtxSel)) (hd : Writes i (.ch ch .dacCode)) (code : Channel → DacCode) :
    (setManual ch code).PartOf i :=
  bind (update (fun _ => .disengage ch hp hi hm)) (fun _ => bind (look _) (fun _ => map (writeDac hd _)))

theorem requireReg (ok : Bool) (a : RegAddr) : (requireReg ok a).PartOf i :=
  ite (pure _) (Cmd.Within.raise (frame_reach i) (fun _ => trivial))

/-- R64, R129: a bare frame of a read, or of a write. -/
theorem readOnce (a : RegAddr) : (readOnce a).PartOf i :=
  bind (look _) (fun _ => bind (look _) (fun _ => map (adcFrame _)))

theorem writeOnce (a : RegAddr) (p : List Byte) : (writeOnce a p).PartOf i := bind (look _) (fun _ => map (adcFrame _))

theorem resetAdc (h : Writes i .ckmode) : resetAdc.PartOf i := bind (adcFrame _) (fun _ => update (fun _ => .ckmode _ h))

/-- R213. -/
theorem bodyPollAdc : bodyPollAdc.PartOf .pollAdc := by
  have hreads : Cmd.Reads (Reach .pollAdc) (StopAllowed .pollAdc) := reads rfl
  refine bind (look _) (fun now => bind (look _) (fun t => bind hreads.within_readStatus (fun st => ite ?ready (pure _))))
  refine bind (hreads.within_readValue _) (fun code => ?_)
  cases controlChannel (t.statusChannel st) with
  | none => exact pure _
  | some ch =>
    refine bind (sample (by simp [Writes, WritesCh]) _ _) (fun _ => map (hreads.within_controlStep ch
      (fun _ m => .single (.mtx m (by simp [Writes]))) (fun _ x => .single (.iir ch _ (by simp [Writes, WritesCh])))
      (fun _ x dt => .single (.pid ch _ (by simp [Writes, WritesCh]))) (writeDac (by simp [Writes, WritesCh]))
      (setTecEn (by simp [Writes, WritesCh]))))

/-- R214. -/
theorem bodyBlockInit : bodyBlockInit.PartOf .blockInit := by
  have htec : ∀ ch, Writes .blockInit (.ch ch .tecEn) := fun _ => by simp [Writes, WritesCh]
  have hcal : ∀ ch, (Machine.calibrateDac ch).PartOf .blockInit := fun _ =>
    calibrateDac (by simp [Writes, WritesCh]) (by simp [Writes, WritesCh])
  have hinit : Machine.adcInit.PartOf .blockInit :=
    adcInit (by simp [Writes]) (by simp [Writes]) (by simp [Writes]) (by simp [Writes]) rfl (by simp [Writes, WritesCh])
  exact bind (setTecEn (htec _) _) (fun _ => bind (setTecEn (htec _) _) (fun _ => bind hinit (fun _ => bind (dacInit _) (fun _ =>
    bind (dacInit _) (fun _ => bind (hcal _) (fun _ => bind (hcal _) (fun _ => bind (look _) (fun _ => pure _))))))))

end Cmd.PartOf

/-! Every instruction. -/

/-- The computation each instruction runs. -/
def bodyOf : Instr → Cmd Results
  | .ckInit m => bodyCkInit m
  | .ckFeed b => bodyCkFeed b
  | .ckResult => bodyCkResult
  | .adcReset => bodyAdcReset
  | .adcReadReg a => bodyAdcReadReg a
  | .adcWriteReg a => bodyAdcWriteReg a
  | .adcUpdateReg a => bodyAdcUpdateReg a
  | .adcIdentify => bodyAdcIdentify
  | .adcSetChecksumMode m => bodyAdcSetChecksumMode m
  | .adcSetupChannel ch p n => bodyAdcSetupChannel ch p n
  | .adcCalibrateOffset => bodyAdcCalibrateOffset
  | .adcGetCalibration ch => bodyAdcGetCalibration ch
  | .adcGetPostfilter ch => bodyAdcGetPostfilter ch
  | .adcSetPostfilter ch c => bodyAdcSetPostfilter ch c
  | .adcPostfilterClosest => bodyAdcPostfilterClosest
  | .adcDataReady => bodyAdcDataReady
  | .adcReadData => bodyAdcReadData
  | .adcInit => bodyAdcInit
  | .dacInit ch => bodyDacInit ch
  | .dacSetCode ch => bodyDacSetCode ch
  | .dacSetVolts ch => bodyDacSetVolts ch
  | .shGetTemperature ch => bodyShGetTemperature ch
  | .shSetParam ch p => bodyShSetParam ch p
  | .pidUpdate ch => bodyPidUpdate ch
  | .pidUpdateKi ch => bodyPidUpdateKi ch
  | .pidSetParam ch p => bodyPidSetParam ch p
  | .iirTick ch => bodyIirTick ch
  | .iirSetCoeff ch c => bodyIirSetCoeff ch c
  | .iirSetTarget ch => bodyIirSetTarget ch
  | .mtxTick => bodyMtxTick
  | .mtxSetCoeff k c => bodyMtxSetCoeff k c
  | .mtxSetSource k r s => bodyMtxSetSource k r s
  | .chConvertData ch => bodyChConvertData ch
  | .chSample ch => bodyChSample ch
  | .chGetTemperature ch => bodyChGetTemperature ch
  | .chSetI ch => bodyChSetI ch
  | .chGetI ch => bodyChGetI ch
  | .chSetDacVolts ch => bodyChSetDacVolts ch
  | .chSetCenter ch c => bodyChSetCenter ch c
  | .chSetPidEngaged ch f => bodyChSetPidEngaged ch f
  | .chSetIirEngaged ch f => bodyChSetIirEngaged ch f
  | .chSetMtxSel ch k => bodyChSetMtxSel ch k
  | .chSetTecEn ch f => bodyChSetTecEn ch f
  | .chSetPwmLimit ch l => bodyChSetPwmLimit ch l
  | .chCalibrateDac ch => bodyChCalibrateDac ch
  | .chReadField idx id => bodyChReadField idx id
  | .pollAdc => bodyPollAdc
  | .blockInit => bodyBlockInit
  | .spiReadCmd a => bodySpiReadCmd a
  | .spiWriteCmd a => bodySpiWriteCmd a
  | .spiResetFrame => bodySpiResetFrame
  | .dacWord v => bodyDacWord v

theorem exec_eq (i : Instr) (s : State) : exec i s = .next (settle i s (bodyOf i s.toBlock)) := by cases i <;> rfl

/-- R49: every instruction does what the table of writers allows it, and nothing else. -/
theorem bodyOf_partOf (i : Instr) : (bodyOf i).PartOf i := by
  cases i with
  | ckInit m => exact .map (.update fun _ => .ck _ (by simp [Writes]))
  | ckFeed b => exact .map (.update fun _ => .ck _ (by simp [Writes]))
  | ckResult => exact .map (.look _)
  | adcReset => exact .map (.resetAdc (by simp [Writes]))
  | adcReadReg a =>
    exact .bind (.look _) (fun _ => .bind (.requireLegal _) (fun _ => .map ((Cmd.PartOf.reads (by rfl)).within_readValue a)))
  | adcWriteReg a =>
    exact .bind (.look _) (fun _ => .bind (.requireLegal _) (fun _ => .bind (.operandRegValue a) (fun v => .bind (.look _) (fun n =>
      .map ((Cmd.PartOf.reads (by rfl)).within_writeReg (fun _ => .single (.bumpWrite (by simp [Writes]))) a _)))))
  | adcUpdateReg a =>
    exact .bind (.look _) (fun _ => .bind (.requireLegal _) (fun _ => .bind (.operandRegValue a) (fun v =>
      .bind (.operandRegMask a) (fun m =>
        .map ((Cmd.PartOf.reads (by rfl)).within_updateReg (fun _ => .single (.bumpWrite (by simp [Writes]))) a _)))))
  | adcIdentify =>
    exact .map ((Cmd.PartOf.reads (by rfl)).within_identify (fun _ => .single (.bumpId (by simp [Writes])))
      (fun _ id h => .single (.adcId id (by simp [Writes]) h)))
  | adcSetChecksumMode m =>
    exact .map ((Cmd.PartOf.reads (by rfl)).within_setChecksumMode (fun _ => .single (.bumpWrite (by simp [Writes]))) m
      (fun _ => .single (.ckmode m (by simp [Writes]))))
  | adcSetupChannel ch p n =>
    exact .bind (.look _) (fun _ => .bind (.requireLegal _) (fun _ =>
      .map ((Cmd.PartOf.reads (by rfl)).within_setupChannel (fun _ => .single (.bumpWrite (by simp [Writes]))) ch p n)))
  | adcCalibrateOffset =>
    exact .map ((Cmd.PartOf.reads (by rfl)).within_calibrateOffset (fun _ => .single (.bumpWrite (by simp [Writes]))))
  | adcGetCalibration ch =>
    exact .map ((Cmd.PartOf.reads (by rfl)).within_getCalibration ch (fun _ k => .single (.capture ch k (by simp [Writes, WritesCh]))))
  | adcGetPostfilter ch => exact .bind (.look _) (fun _ => .map ((Cmd.PartOf.reads (by rfl)).within_readValue _))
  | adcSetPostfilter ch c =>
    exact .bind (.look _) (fun _ => .bind (.requireLegal _) (fun _ =>
      .map ((Cmd.PartOf.reads (by rfl)).within_updateReg (fun _ => .single (.bumpWrite (by simp [Writes]))) _ _)))
  | adcPostfilterClosest => exact .bind (.look _) (fun _ => .map (.look _))
  | adcDataReady => exact .bind (Cmd.PartOf.reads (by rfl)).within_readStatus (fun _ => .map (.look _))
  | adcReadData => exact .bind (.look _) (fun _ => .map ((Cmd.PartOf.reads (by rfl)).within_readValue _))
  | adcInit =>
    exact .map (.adcInit (by simp [Writes]) (by simp [Writes]) (by simp [Writes]) (by simp [Writes]) rfl
      (by simp [Writes, WritesCh]))
  | dacInit ch => exact .map (.dacInit ch)
  | dacSetCode ch =>
    exact .bind (.look _) (fun _ => .ite (Cmd.Within.raise (frame_reach _) (fun _ => ⟨ch, rfl⟩))
      (.map (.writeDac (by simp [Writes, WritesCh]) _)))
  | dacSetVolts ch => exact .bind (.look _) (fun _ => .map (.writeDac (by simp [Writes, WritesCh]) _))
  | shGetTemperature ch => exact .bind (.look _) (fun _ => .map (.look _))
  | shSetParam ch p => exact .bind (.look _) (fun _ => .map (.update fun _ => .sh ch _ (by simp [Writes, WritesCh])))
  | pidUpdate ch =>
    exact .bind (.look _) (fun _ => .bind (.look _) (fun _ => .map fun _ => .single (.pid ch _ (by simp [Writes, WritesCh]))))
  | pidUpdateKi ch => exact .bind (.look _) (fun _ => .map (.update fun _ => .pid ch _ (by simp [Writes, WritesCh])))
  | pidSetParam ch p => exact .bind (.look _) (fun _ => .map (.update fun _ => .pid ch _ (by simp [Writes, WritesCh])))
  | iirTick ch => exact .bind (.look _) (fun _ => .map fun _ => .single (.iir ch _ (by simp [Writes, WritesCh])))
  | iirSetCoeff ch c => exact .bind (.look _) (fun _ => .map (.update fun _ => .iir ch _ (by simp [Writes, WritesCh])))
  | iirSetTarget ch => exact .bind (.look _) (fun _ => .map (.update fun _ => .iir ch _ (by simp [Writes, WritesCh])))
  | mtxTick => exact .map (.update fun _ => .mtx _ (by simp [Writes]))
  | mtxSetCoeff k c => exact .bind (.look _) (fun _ => .map (.update fun _ => .mtx _ (by simp [Writes])))
  | mtxSetSource k r s => exact .bind (.look _) (fun _ => .map (.update fun _ => .mtx _ (by simp [Writes])))
  | chConvertData ch => exact .bind .operandCode (fun _ => .map (.convertCode ch _))
  | chSample ch =>
    exact .bind .operandCode (fun _ => .bind (.look _) (fun _ => .map (.sample (by simp [Writes, WritesCh]) _ _)))
  | chGetTemperature ch => exact .map (.look _)
  | chSetI ch =>
    exact .bind (.look _) (fun _ => .setManual (by simp [Writes, WritesCh]) (by simp [Writes, WritesCh])
      (by simp [Writes, WritesCh]) (by simp [Writes, WritesCh]) _)
  | chGetI ch => exact .map (.look _)
  | chSetDacVolts ch =>
    exact .bind (.look _) (fun _ => .setManual (by simp [Writes, WritesCh]) (by simp [Writes, WritesCh])
      (by simp [Writes, WritesCh]) (by simp [Writes, WritesCh]) _)
  | chSetCenter ch c =>
    exact .bind (.look _) (fun _ => .bind (.look _) (fun _ =>
      .bind (.update fun _ => .center ch _ (by simp [Writes, WritesCh])) (fun _ =>
        .ite (.pure _) (.bind (.look _) (fun _ => .map (.writeDac (by simp [Writes, WritesCh]) _))))))
  | chSetPidEngaged ch f => exact .map (.update fun _ => .pidEngaged ch f (by simp [Writes, WritesCh]))
  | chSetIirEngaged ch f => exact .map (.update fun _ => .iirEngaged ch f (by simp [Writes, WritesCh]))
  | chSetMtxSel ch k => exact .map (.update fun _ => .mtxSel ch k (by simp [Writes, WritesCh]))
  | chSetTecEn ch f => exact .map (.setTecEn (by simp [Writes, WritesCh]) f)
  | chSetPwmLimit ch l => exact .bind (.look _) (fun _ => .map (.update fun _ => .pwm ch _ (by simp [Writes, WritesCh])))
  | chCalibrateDac ch => exact .map (.calibrateDac (by simp [Writes, WritesCh]) (by simp [Writes, WritesCh]))
  | chReadField idx id =>
    refine .bind (.look _) (fun w => .bind (.look _) (fun r => ?_))
    cases r with
    | none => exact Cmd.Within.raise (frame_reach _) (fun _ => trivial)
    | some r => exact .pure _
  | pollAdc => exact .bodyPollAdc
  | blockInit => exact .bodyBlockInit
  | spiReadCmd a => exact .bind (.look _) (fun _ => .bind (.requireReg _ a) (fun _ => .bind (.readOnce a) (fun _ => .pure _)))
  | spiWriteCmd a =>
    exact .bind (.look _) (fun _ => .bind (.requireReg _ a) (fun _ => .bind (.look _) (fun _ => .bind (.look _) (fun _ =>
      .bind (.requireReg _ a) (fun _ => .bind (.look _) (fun _ => .map (.writeOnce a _)))))))
  | spiResetFrame => exact .map (.resetAdc (by simp [Writes]))
  | dacWord v => exact .bind (.look _) (fun ch => .map (.writeDac (by cases ch <;> simp [Writes, WritesCh]) v))

/-- How an instruction run on s ends, after the effects that took its block to b: well, with an error, or paused. -/
inductive Ended (i : Instr) (s : State) (b : Block) : State → Prop where
  | completed (r : Results) : Ended i s b { toBlock := b.finish 0#8 r, pending := s.pending, running := none }
  | raised (e : Err) (h : StopAllowed i s.toBlock (.raised e)) :
      Ended i s b { toBlock := b.takeError e, pending := s.pending, running := none }
  | paused (h : s.cfg.retryLimit = none) :
      Ended i s b { toBlock := b, pending := s.pending, running := some ⟨i, s.toBlock⟩ }

/-- R49, R51, R226: what can be said of every instruction. -/
theorem exec_ends {i : Instr} {s t : State} (h : exec i s = .next t) : ∃ b, Reach i s.toBlock b ∧ Ended i s b t := by
  rw [exec_eq] at h
  obtain rfl : settle i s (bodyOf i s.toBlock) = t := by injection h
  have hpart := bodyOf_partOf i s.toBlock
  match hrun : bodyOf i s.toBlock with
  | .ok r b =>
    rw [hrun] at hpart
    exact ⟨b, hpart, .completed r⟩
  | .error (.raised e) b =>
    rw [hrun] at hpart
    exact ⟨b, hpart.1, .raised e hpart.2⟩
  | .error .paused b =>
    rw [hrun] at hpart
    exact ⟨b, hpart.1, .paused hpart.2⟩

/-- Settles O11: only an unbounded retry loop pauses. -/
theorem finiteRetryLimitTerminates : Obligations.FiniteRetryLimitTerminates := by
  unfold Obligations.FiniteRetryLimitTerminates
  intro i s t limit hlimit hexec
  obtain ⟨b, -, hend⟩ := exec_ends hexec
  cases hend with
  | completed | raised => rfl
  | paused hnone => exact nomatch hlimit.symm.trans hnone

end Sys2Proof.Machine
end

section
/-! What the effects leave as it was (10_state.md R49, R29), what every command's end writes (R48, R215), and who raises DacRange
(R218). -/

namespace Sys2Proof.Machine

open Safety

/-! The writers of R49. -/

theorem ChField.Same.refl (x : ChField) (c : Channel) : x.Same c c := by cases x <;> simp [ChField.Same]

theorem ChField.Same.trans {x : ChField} {c d e : Channel} (h : x.Same c d) (h' : x.Same d e) : x.Same c e := by
  cases x <;> simp_all [ChField.Same]

theorem Field.Same.refl (f : Field) (b : Block) : f.Same b b := by
  cases f with
  | ch c x => exact ChField.Same.refl x _
  | _ => simp [Field.Same]

theorem Field.Same.trans {f : Field} {b c d : Block} (h : f.Same b c) (h' : f.Same c d) : f.Same b d := by
  cases f with
  | ch c x => exact ChField.Same.trans h h'
  | _ => simp_all [Field.Same]

/-- Only the record of the channel that is written can change. -/
theorem ChField.Same.of_set {x : ChField} {ch c : Ch} {p : PerCh Channel} {r : Channel} (h : c = ch → x.Same (p.get c) r) :
    x.Same (p.get c) ((p.set ch r).get c) := by
  by_cases hc : c = ch
  · subst hc
    simpa using h rfl
  · rw [PerCh.get_set_other _ _ _ _ hc]
    exact .refl x _

theorem Channel.captureCal_of_some {c : Channel} {k : AdcCal} (h : c.cal = some k) (k' : AdcCal) : c.captureCal k' = c := by
  simp [Channel.captureCal, h]

theorem Channel.captureCal_eq_with (c : Channel) (k : AdcCal) : ∃ k', c.captureCal k = { c with cal := k' } := by
  cases h : c.cal with
  | none => exact ⟨some k, by simp [Channel.captureCal, h]⟩
  | some k' => exact ⟨some k', by rw [captureCal_of_some h, ← h]⟩

/-- R208: the outcome of a calibration is in three fields. -/
theorem Channel.calibrated_eq_with (c : Channel) (m : CalMode) (target : F64) (best : Option DacCode) :
    ∃ v f e, c.calibrated m target best = { c with vrefMeas := v, dacFs := f, calFailed := e } := by
  unfold Channel.calibrated
  cases best with
  | none => exact ⟨_, _, _, rfl⟩
  | some b =>
    cases m with
    | vrefBias => exact ⟨_, _, _, rfl⟩
    | factor =>
      by_cases hb : b = 0#18
      · simp only [if_pos hb]; exact ⟨_, _, _, rfl⟩
      · simp only [if_neg hb]; exact ⟨_, _, _, rfl⟩

/-- A write of part y of channel ch's record leaves every part that is not written. -/
theorem ChField.Same.of_write {i : Instr} {ch c : Ch} {x y : ChField} {p : PerCh Channel} {r : Channel}
    (hw : Writes i (.ch ch y)) (hx : ¬ WritesCh i c x) (h : ∀ z, z ≠ y → z.Same (p.get ch) r) :
    x.Same (p.get c) ((p.set ch r).get c) := by
  refine .of_set ?_
  rintro rfl
  exact h x (fun hxy => hx (hxy ▸ hw))

/-- R49: an effect changes no part of a channel record that its instruction does not write. -/
theorem Effect.keeps_ch {i : Instr} {b b' : Block} (h : Effect i b b') {c : Ch} {x : ChField} (hx : ¬ WritesCh i c x) :
    x.Same (b.ch.get c) (b'.ch.get c) := by
  cases h with
  | frame | feedback | dacFailed | dacInit | bumpRead | bumpWrite | bumpId | adcId | phase | ck | ckmode | mtx =>
    exact .refl x _
  | dacSent _ _ _ _ hw | tecEn _ _ hw | pid _ _ hw | iir _ _ hw | sh _ _ hw | pwm _ _ hw | center _ _ hw
  | pidEngaged _ _ hw | iirEngaged _ _ hw | mtxSel _ _ hw | sampled _ _ _ hw | calCleared _ hw =>
    exact .of_write hw hx fun z hz => by cases z <;> simp_all [ChField.Same, Channel.sampled]
  | capture ch k hw =>
    obtain ⟨k', hk⟩ := Channel.captureCal_eq_with (b.ch.get ch) k
    exact .of_write hw hx fun z hz => by cases z <;> simp_all [ChField.Same]
  | calibrated ch m target best hw =>
    obtain ⟨v, f, e, hcal⟩ := Channel.calibrated_eq_with (b.ch.get ch) m target best
    exact .of_write hw hx fun z hz => by cases z <;> simp_all [ChField.Same]
  | disengage ch hp hi hm =>
    refine .of_set ?_
    rintro rfl
    cases x with
    | pidEngaged => exact absurd hp hx
    | iirEngaged => exact absurd hi hx
    | mtxSel => exact absurd hm hx
    | _ => simp [ChField.Same, Channel.disengage]

/-- R49: an effect changes no part of the block that its instruction does not write. -/
theorem Effect.keeps {i : Instr} {b b' : Block} (h : Effect i b b') {f : Field} (hf : ¬ Writes i f) : f.Same b b' := by
  cases f with
  | ch c x => exact h.keeps_ch hf
  | phase =>
    cases h with
    | phase p hw => exact absurd hw hf
    | _ => rfl
  | ck =>
    cases h with
    | ck c hw => exact absurd hw hf
    | _ => rfl
  | ckmode =>
    cases h with
    | ckmode m hw => exact absurd hw hf
    | _ => rfl
  | id =>
    cases h with
    | bumpId hw => exact absurd hw hf
    | adcId id hw hid => exact absurd hw hf
    | _ => exact ⟨rfl, rfl⟩
  | mtx =>
    cases h with
    | mtx m hw => exact absurd hw hf
    | _ => rfl
  | rcWrite =>
    cases h with
    | bumpWrite hw => exact absurd hw hf
    | _ => rfl
  | rcRead =>
    cases h with
    | bumpRead hw => exact absurd hw hf
    | _ => rfl

theorem Reach.keeps {i : Instr} {b b' : Block} (h : Reach i b b') {f : Field} (hf : ¬ Writes i f) : f.Same b b' := by
  induction h with
  | refl => exact .refl f b
  | tail _ he ih => exact ih.trans (he.keeps hf)

/-- R48, R215: the end of a command writes the result registers and the history. -/
theorem Field.Same.of_ended {i : Instr} {s t : State} {b : Block} (h : Ended i s b t) (f : Field) : f.Same b t.toBlock := by
  cases h with
  | completed | raised | paused => cases f with
    | ch c x => exact ChField.Same.refl x _
    | _ => simp [Field.Same, Block.finish, Block.takeError]

/-- R49: what an instruction does not write is as it was. -/
theorem exec_keeps {i : Instr} {s t : State} (h : exec i s = .next t) {f : Field} (hf : ¬ Writes i f) :
    f.Same s.toBlock t.toBlock := by
  obtain ⟨b, hreach, hend⟩ := exec_ends h
  exact (hreach.keeps hf).trans (.of_ended hend f)

/-- Settles O12: `Writes` is the statement's list of exceptions. -/
theorem sequencerAndMatrixWriters : Obligations.SequencerAndMatrixWriters := by
  unfold Obligations.SequencerAndMatrixWriters
  intro i s t hexec
  have keeps := fun f => exec_keeps (f := f) hexec
  refine ⟨fun h1 h2 => keeps .phase ?_, fun h1 h2 => keeps .ck ?_, fun h1 h2 h3 h4 h5 => keeps .ckmode ?_,
    fun h1 h2 h3 => keeps .id ?_, fun h1 h2 h3 h4 => keeps .mtx ?_, fun h1 h2 h3 h4 h5 h6 h7 h8 => keeps .rcWrite ?_,
    fun h => keeps .rcRead ?_⟩ <;> simp_all [Writes]

/-- Settles O13: `WritesCh` is the statement's list of exceptions. -/
theorem channelFieldWriters : Obligations.ChannelFieldWriters := by
  unfold Obligations.ChannelFieldWriters
  intro i s t c hexec
  have keeps := fun x => exec_keeps (f := .ch c x) hexec
  refine ⟨fun h1 h2 h3 h4 => keeps .pid ?_, fun h1 h2 h3 h4 => keeps .iir ?_, fun h => keeps .sh ?_, fun h => keeps .pwm ?_,
    fun h => keeps .center ?_, fun h1 h2 => keeps .calResults ?_, fun h1 h2 => keeps .samples ?_,
    fun h1 h2 => ⟨fun h => keeps .pidEngaged ?_, fun h => keeps .iirEngaged ?_, fun h => keeps .mtxSel ?_⟩,
    fun h1 h2 h3 => keeps .tecEn ?_, fun h1 h2 h3 h4 h5 h6 h7 h8 h9 => keeps .dacCode ?_,
    fun h1 h2 h3 => keeps .cal ?_⟩ <;> simp_all [Writes, WritesCh]

/-! R29: the calibration captured once. -/

theorem Effect.keeps_cal {i : Instr} {b b' : Block} (h : Effect i b b') {c : Ch} {k : AdcCal}
    (hk : (b.ch.get c).cal = some k) : (b'.ch.get c).cal = some k := by
  have hset : ∀ (ch : Ch) (r : Channel), (c = ch → r.cal = (b.ch.get c).cal) → ((b.ch.set ch r).get c).cal = some k :=
    fun ch r hr => Eq.trans (ChField.Same.of_set (x := .cal) hr) hk
  cases h with
  | frame | feedback | dacFailed | dacInit | bumpRead | bumpWrite | bumpId | adcId | phase | ck | ckmode | mtx => exact hk
  | dacSent | tecEn | pid | iir | sh | pwm | center | pidEngaged | iirEngaged | mtxSel | disengage | sampled | calCleared =>
    exact hset _ _ (by rintro rfl; rfl)
  | capture ch k' hw =>
    refine hset _ _ ?_
    rintro rfl
    rw [Channel.captureCal_of_some hk]
  | calibrated ch m target best hw =>
    refine hset _ _ ?_
    rintro rfl
    obtain ⟨v, f, e, hcal⟩ := Channel.calibrated_eq_with (b.ch.get c) m target best
    simp only [hcal]

theorem Reach.keeps_cal {i : Instr} {b b' : Block} (h : Reach i b b') {c : Ch} {k : AdcCal}
    (hk : (b.ch.get c).cal = some k) : (b'.ch.get c).cal = some k := by
  induction h with
  | refl => exact hk
  | tail _ he ih => exact he.keeps_cal ih

/-- Settles O14: every effect that can touch a calibration finds it captured and leaves it. -/
theorem calibrationCapturedOnce : Obligations.CalibrationCapturedOnce := by
  unfold Obligations.CalibrationCapturedOnce
  intro i s t ch k hexec hk
  obtain ⟨b, hreach, hend⟩ := exec_ends hexec
  exact Eq.trans (Field.Same.of_ended hend (.ch ch .cal)) (hreach.keeps_cal hk)

/-! R48, R81: what no effect writes, and the history. -/

/-- What the host writes and what only a command's end writes are as they were, and the history has grown. -/
structure Extends (b b' : Block) : Prop where
  cmd : b'.cmd = b.cmd
  opA : b'.opA = b.opA
  opB : b'.opB = b.opB
  opD : b'.opD = b.opD
  opM : b'.opM = b.opM
  cfg : b'.cfg = b.cfg
  rStatus : b'.rStatus = b.rStatus
  rD : b'.rD = b.rD
  rM : b'.rM = b.rM
  rA : b'.rA = b.rA
  hist : ∃ evs, b'.hist = evs ++ b.hist

theorem Extends.refl (b : Block) : Extends b b := ⟨rfl, rfl, rfl, rfl, rfl, rfl, rfl, rfl, rfl, rfl, [], rfl⟩

theorem Extends.trans {b c d : Block} (h : Extends b c) (h' : Extends c d) : Extends b d := by
  obtain ⟨evs, hevs⟩ := h.hist
  obtain ⟨evs', hevs'⟩ := h'.hist
  exact ⟨h'.cmd.trans h.cmd, h'.opA.trans h.opA, h'.opB.trans h.opB, h'.opD.trans h.opD, h'.opM.trans h.opM,
    h'.cfg.trans h.cfg, h'.rStatus.trans h.rStatus, h'.rD.trans h.rD, h'.rM.trans h.rM, h'.rA.trans h.rA,
    evs' ++ evs, by rw [hevs', hevs, List.append_assoc]⟩

/-- The events an effect adds. -/
theorem Effect.hist {i : Instr} {b b' : Block} (h : Effect i b b') : ∃ evs, b'.hist = evs ++ b.hist := by
  cases h with
  | frame evs => exact ⟨.pin .nssAdc .high :: (evs ++ [.pin .nssAdc .low]), by simp⟩
  | feedback e => exact ⟨[e], rfl⟩
  | dacSent ch v a => exact ⟨dacEvents (b.cfg.syncIdle.get ch) ch v a, rfl⟩
  | dacFailed ch v => exact ⟨dacFailEvents (b.cfg.syncIdle.get ch) ch v, rfl⟩
  | dacInit ch => exact ⟨[.pin (.sync ch) (b.cfg.syncIdle.get ch)], rfl⟩
  | tecEn ch f => exact ⟨[.pin (.tecEn ch) (if f then .high else .low)], rfl⟩
  | _ => exact ⟨[], rfl⟩

theorem Effect.extends {i : Instr} {b b' : Block} (h : Effect i b b') : Extends b b' := by
  have hhist := h.hist
  cases h <;> exact ⟨rfl, rfl, rfl, rfl, rfl, rfl, rfl, rfl, rfl, rfl, hhist⟩

theorem Reach.extends {i : Instr} {b b' : Block} (h : Reach i b b') : Extends b b' := by
  induction h with
  | refl => exact .refl b
  | tail _ he ih => exact ih.trans he.extends

theorem Err.code_le_five (e : Err) : e.code.toNat ≤ 5 := by cases e <;> simp [Err.code]

/-- Settles O10: the effects only lengthen the history, and the end of the command writes the result registers and its event. -/
theorem commandEndWritesResults : Obligations.CommandEndWritesResults := by
  unfold Obligations.CommandEndWritesResults
  intro i s t hexec
  obtain ⟨b, hreach, hend⟩ := exec_ends hexec
  have hext := hreach.extends
  obtain ⟨evs, hevs⟩ := hext.hist
  have hwritten : ∀ (r : BitVec 8) (x : Results), (b.finish r x).hist = .result r x.rD x.rM x.rA :: (evs ++ s.hist) :=
    fun r x => congrArg _ hevs
  cases hend with
  | completed r =>
    exact ⟨fun _ => ⟨⟨evs, hwritten _ r⟩, Nat.zero_le 5, fun h => absurd rfl h⟩, nofun,
      hext.cmd, hext.opA, hext.opB, hext.opD, hext.opM, hext.cfg, rfl⟩
  | raised e =>
    exact ⟨fun _ => ⟨⟨evs, hwritten _ _⟩, e.code_le_five, fun _ => ⟨rfl, rfl, rfl⟩⟩, nofun,
      hext.cmd, hext.opA, hext.opB, hext.opD, hext.opM, hext.cfg, rfl⟩
  | paused =>
    exact ⟨nofun, fun _ => ⟨hext.rStatus, hext.rD, hext.rM, hext.rA⟩,
      hext.cmd, hext.opA, hext.opB, hext.opD, hext.opM, hext.cfg, rfl⟩

/-! R218. -/

/-- A code above DAC_MAX is refused before any pin is driven. -/
theorem run_bodyDacSetCode_above {b : Block} (ch : Ch) (h : 0x3FFFF < b.opD.toNat) :
    bodyDacSetCode ch b = .error (.raised (.dacRange b.opD)) b := by
  simp only [bodyDacSetCode, Cmd.run_bind, Cmd.run_look]
  rw [if_pos (by simpa [dacMax] using h)]
  rfl

theorem Err.code_eq_three {e : Err} (h : e.code = 3#8) : ∃ v, e = .dacRange v := by
  cases e with
  | dacRange v => exact ⟨v, rfl⟩
  | transport | illegalCommand | conversionUnavailable | retriesExhausted => exact absurd h (by simp [Err.code])

/-- Settles O37: the refusal comes before the frame, and of the ways an instruction can end only this one raises DacRange. -/
theorem dacSetCodeRange : Obligations.DacSetCodeRange := by
  unfold Obligations.DacSetCodeRange
  refine ⟨fun s ch h => ?above, fun i s t hi hexec hrun hstatus => ?others⟩
  case above => exact runCommand_failed (run_bodyDacSetCode_above ch h)
  case others =>
    obtain ⟨b, -, hend⟩ := exec_ends hexec
    cases hend with
    | completed => exact absurd hstatus (by simp [Block.finish])
    | paused => exact nomatch hrun
    | raised e hallowed =>
      obtain ⟨v, rfl⟩ := Err.code_eq_three hstatus
      obtain ⟨ch, hch⟩ := hallowed
      exact hi ch hch

end Sys2Proof.Machine
end

section
/-! The machine stays in order (the invariant `InOrder`): what each effect does to the last levels, the last DAC frames and the
records they are compared with. -/

namespace Sys2Proof.Machine

open Safety

/-! The invariant, clause by clause. -/

/-- One channel's outputs agree with the history, and no stored sample is the sentinel. -/
structure ChannelSound (b : Block) (ch : Ch) : Prop where
  dac : (lastDacFrame ch b.hist).getD (dacBytes 0#18) = dacBytes (b.ch.get ch).dacCode
  sync : b.sync.get ch = lastLevel (.sync ch) b.hist
  idle : ∀ l ∈ b.sync.get ch, l = b.cfg.syncIdle.get ch
  tec : (lastLevel (.tecEn ch) b.hist).getD .low = Level.ofBool (b.ch.get ch).tecEn
  data : ∀ c ∈ (b.ch.get ch).adcData, c ≠ b.cfg.sentinel

/-- The chip-select is released, a stored ID is of the family, and both channels are in order. -/
structure BlockSound (b : Block) : Prop where
  nss : b.nss = .high
  released : (lastLevel .nssAdc b.hist).getD .high = .high
  family : ∀ id ∈ b.adcId, isFamily b.cfg id = true
  channel : ∀ ch, ChannelSound b ch

theorem channelOk_iff (b : Block) (ch : Ch) : channelOk b ch = true ↔ ChannelSound b ch := by
  simp only [channelOk, Bool.and_eq_true, beq_iff_eq, Option.all_eq_true, bne_iff_ne]
  exact ⟨fun ⟨⟨⟨⟨h1, h2⟩, h3⟩, h4⟩, h5⟩ => ⟨h1, h2, h3, h4, h5⟩, fun ⟨h1, h2, h3, h4, h5⟩ => ⟨⟨⟨⟨h1, h2⟩, h3⟩, h4⟩, h5⟩⟩

theorem blockOk_iff (b : Block) : blockOk b = true ↔ BlockSound b := by
  simp only [blockOk, Bool.and_eq_true, beq_iff_eq, Option.all_eq_true, channelOk_iff]
  exact ⟨fun ⟨⟨⟨⟨h1, h2⟩, h3⟩, h4⟩, h5⟩ => ⟨h1, h2, h3, fun ch => by cases ch; exacts [h4, h5]⟩,
    fun ⟨h1, h2, h3, h4⟩ => ⟨⟨⟨⟨h1, h2⟩, h3⟩, h4 .c0⟩, h4 .c1⟩⟩

/-! The last level of a pin and the last frame of a DAC. -/

theorem lastLevel_onAdc {evs : List Event} (h : ∀ e ∈ evs, OnAdc e) (p : Pin) (es : List Event) :
    lastLevel p (evs ++ es) = lastLevel p es := by
  induction evs with
  | nil => rfl
  | cons e evs ih =>
    have ih := ih fun e he => h e (.tail _ he)
    match e, h e (.head _) with
    | .spi .adc _ _, _ | .spiFail .adc _, _ => exact ih

theorem lastDacFrame_onAdc {evs : List Event} (h : ∀ e ∈ evs, OnAdc e) (ch : Ch) (es : List Event) :
    lastDacFrame ch (evs ++ es) = lastDacFrame ch es := by
  induction evs with
  | nil => rfl
  | cons e evs ih =>
    have ih := ih fun e he => h e (.tail _ he)
    match e, h e (.head _) with
    | .spi .adc _ _, _ | .spiFail .adc _, _ => exact ih

theorem lastLevel_onSampler {e : Event} (h : OnSampler e) (p : Pin) (es : List Event) :
    lastLevel p (e :: es) = lastLevel p es := by
  match e, h with
  | .fb _ _ _, _ | .fbFail _ _, _ => rfl

theorem lastDacFrame_onSampler {e : Event} (h : OnSampler e) (ch : Ch) (es : List Event) :
    lastDacFrame ch (e :: es) = lastDacFrame ch es := by
  match e, h with
  | .fb _ _ _, _ | .fbFail _ _, _ => rfl

@[simp] theorem lastLevel_pin (p q : Pin) (l : Level) (es : List Event) :
    lastLevel p (.pin q l :: es) = if q = p then some l else lastLevel p es := rfl

@[simp] theorem lastDacFrame_pin (ch : Ch) (q : Pin) (l : Level) (es : List Event) :
    lastDacFrame ch (.pin q l :: es) = lastDacFrame ch es := rfl

@[simp] theorem lastLevel_dacEvents (p : Pin) (idle : Level) (ch : Ch) (v : DacCode) (a : Answer) (es : List Event) :
    lastLevel p (dacEvents idle ch v a ++ es) = if .sync ch = p then some idle else lastLevel p es := by
  cases idle <;> by_cases h : Pin.sync ch = p <;> simp [dacEvents, lastLevel, h]

@[simp] theorem lastDacFrame_dacEvents (c : Ch) (idle : Level) (ch : Ch) (v : DacCode) (a : Answer) (es : List Event) :
    lastDacFrame c (dacEvents idle ch v a ++ es) = if ch = c then some (dacBytes v) else lastDacFrame c es := by
  cases idle <;> simp [dacEvents, lastDacFrame]

@[simp] theorem lastLevel_dacFailEvents (p : Pin) (idle : Level) (ch : Ch) (v : DacCode) (es : List Event) :
    lastLevel p (dacFailEvents idle ch v ++ es) = if .sync ch = p then some idle else lastLevel p es := by
  cases idle <;> by_cases h : Pin.sync ch = p <;> simp [dacFailEvents, lastLevel, h]

@[simp] theorem lastDacFrame_dacFailEvents (c : Ch) (idle : Level) (ch : Ch) (v : DacCode) (es : List Event) :
    lastDacFrame c (dacFailEvents idle ch v ++ es) = lastDacFrame c es := by
  cases idle <;> simp [dacFailEvents, lastDacFrame]

/-! Each effect keeps the block in order. -/

/-- A channel that keeps its record's outputs and sample, its pins and its part of the history. -/
theorem ChannelSound.congr {b b' : Block} {ch : Ch} (h : ChannelSound b ch) (hcfg : b'.cfg = b.cfg)
    (hdac : lastDacFrame ch b'.hist = lastDacFrame ch b.hist) (hsync : lastLevel (.sync ch) b'.hist = lastLevel (.sync ch) b.hist)
    (htec : lastLevel (.tecEn ch) b'.hist = lastLevel (.tecEn ch) b.hist) (hpin : b'.sync.get ch = b.sync.get ch)
    (hcode : (b'.ch.get ch).dacCode = (b.ch.get ch).dacCode) (hen : (b'.ch.get ch).tecEn = (b.ch.get ch).tecEn)
    (hdata : ∀ c ∈ (b'.ch.get ch).adcData, c ≠ b.cfg.sentinel) : ChannelSound b' ch :=
  ⟨by rw [hdac, hcode, h.dac], by rw [hpin, hsync, h.sync], by rw [hpin, hcfg]; exact h.idle, by rw [htec, hen, h.tec],
    by rw [hcfg]; exact hdata⟩

/-- One channel's record rewritten, its outputs as they were and its sample no sentinel. -/
theorem BlockSound.updCh {b : Block} (h : BlockSound b) {ch : Ch} {f : Channel → Channel}
    (hcode : (f (b.ch.get ch)).dacCode = (b.ch.get ch).dacCode) (hen : (f (b.ch.get ch)).tecEn = (b.ch.get ch).tecEn)
    (hdata : ∀ c ∈ (f (b.ch.get ch)).adcData, c ≠ b.cfg.sentinel) : BlockSound (b.updCh ch f) := by
  refine ⟨h.nss, h.released, h.family, fun c => ?_⟩
  by_cases hc : c = ch
  · subst hc
    exact (h.channel c).congr rfl rfl rfl rfl rfl (by simpa using hcode) (by simpa using hen) (by simpa using hdata)
  · exact (h.channel c).congr rfl rfl rfl rfl rfl (by simp [PerCh.get_set_other _ _ _ _ hc]) (by simp [PerCh.get_set_other _ _ _ _ hc])
      (by simpa [PerCh.get_set_other _ _ _ _ hc] using (h.channel c).data)

/-- A sync pin driven to its idle level, and no DAC frame completed. -/
theorem BlockSound.strobed {b b' : Block} (h : BlockSound b) {ch : Ch} (hcfg : b'.cfg = b.cfg) (hnss : b'.nss = b.nss)
    (hid : b'.adcId = b.adcId) (hch : b'.ch = b.ch) (hsync : b'.sync = b.sync.set ch (some (b.cfg.syncIdle.get ch)))
    (hlevel : ∀ p, lastLevel p b'.hist = if .sync ch = p then some (b.cfg.syncIdle.get ch) else lastLevel p b.hist)
    (hframe : ∀ c, lastDacFrame c b'.hist = lastDacFrame c b.hist) : BlockSound b' := by
  refine ⟨hnss.trans h.nss, by simpa [hlevel] using h.released, by rw [hid, hcfg]; exact h.family, fun c => ?_⟩
  by_cases hc : c = ch
  · subst hc
    exact ⟨by simpa [hframe, hch] using (h.channel c).dac, by simp [hsync, hlevel], by simp [hsync, hcfg],
      by simpa [hlevel, hch] using (h.channel c).tec, by simpa [hch, hcfg] using (h.channel c).data⟩
  · exact (h.channel c).congr hcfg (hframe c) (by simp [hlevel, Ne.symm hc]) (by simp [hlevel])
      (by rw [hsync, PerCh.get_set_other _ _ _ _ hc]) (by rw [hch]) (by rw [hch]) (by rw [hch]; exact (h.channel c).data)

theorem BlockSound.afterDac {b : Block} (h : BlockSound b) (ch : Ch) (v : DacCode) (a : Answer) (rest : List Answer) :
    BlockSound (afterDac b ch v a rest) := by
  refine ⟨h.nss, by simpa [Safety.afterDac] using h.released, h.family, fun c => ?_⟩
  by_cases hc : c = ch
  · subst hc
    exact ⟨by simp [Safety.afterDac], by simp [Safety.afterDac], by simp [Safety.afterDac],
      by simpa [Safety.afterDac] using (h.channel c).tec, by simpa [Safety.afterDac] using (h.channel c).data⟩
  · have hother : (Safety.afterDac b ch v a rest).ch.get c = b.ch.get c := PerCh.get_set_other _ _ _ _ hc
    exact (h.channel c).congr rfl (by simp [Safety.afterDac, Ne.symm hc]) (by simp [Safety.afterDac, Ne.symm hc])
      (by simp [Safety.afterDac]) (PerCh.get_set_other _ _ _ _ hc) (by rw [hother]) (by rw [hother])
      (by rw [hother]; exact (h.channel c).data)

theorem BlockSound.afterTec {b : Block} (h : BlockSound b) (ch : Ch) (f : Bool) : BlockSound (afterTec b ch f) := by
  refine ⟨h.nss, by simpa [Safety.afterTec] using h.released, h.family, fun c => ?_⟩
  by_cases hc : c = ch
  · subst hc
    exact ⟨by simpa [Safety.afterTec] using (h.channel c).dac, by simpa [Safety.afterTec] using (h.channel c).sync,
      (h.channel c).idle, by cases f <;> simp [Safety.afterTec, Level.ofBool],
      by simpa [Safety.afterTec] using (h.channel c).data⟩
  · have hother : (Safety.afterTec b ch f).ch.get c = b.ch.get c := PerCh.get_set_other _ _ _ _ hc
    exact (h.channel c).congr rfl rfl (by simp [Safety.afterTec]) (by simp [Safety.afterTec, Ne.symm hc]) rfl (by rw [hother])
      (by rw [hother]) (by rw [hother]; exact (h.channel c).data)

/-- R64: an ADC frame releases the chip-select and drives nothing else. -/
theorem BlockSound.frame {b : Block} (h : BlockSound b) {evs : List Event} (hevs : ∀ e ∈ evs, OnAdc e) (script : List Answer)
    (ports : Nat) :
    BlockSound { b with nss := .high, script := script, ports := ports
                        hist := .pin .nssAdc .high :: (evs ++ .pin .nssAdc .low :: b.hist) } := by
  refine ⟨rfl, by simp, h.family, fun c => (h.channel c).congr rfl ?_ ?_ ?_ rfl rfl rfl (h.channel c).data⟩
  · simp [lastDacFrame_onAdc hevs]
  · simp [lastLevel_onAdc hevs]
  · simp [lastLevel_onAdc hevs]

theorem Effect.sound {i : Instr} {b b' : Block} (he : Effect i b b') (h : BlockSound b) : BlockSound b' := by
  cases he with
  | bumpRead | bumpWrite | bumpId | phase | ck | ckmode | mtx =>
    exact ⟨h.nss, h.released, h.family, fun c => (h.channel c).congr rfl rfl rfl rfl rfl rfl rfl (h.channel c).data⟩
  | adcId id hw hid =>
    refine ⟨h.nss, h.released, ?_, fun c => (h.channel c).congr rfl rfl rfl rfl rfl rfl rfl (h.channel c).data⟩
    intro id' hid'
    obtain rfl : id = id' := Option.some.inj hid'
    exact (ofFamily_eq b.cfg id).symm.trans hid
  | frame evs script ports hevs => exact h.frame hevs script ports
  | feedback e script ports he =>
    exact ⟨h.nss, by simpa [lastLevel_onSampler he] using h.released, h.family, fun c => (h.channel c).congr rfl
      (lastDacFrame_onSampler he _ _) (lastLevel_onSampler he _ _) (lastLevel_onSampler he _ _) rfl rfl rfl (h.channel c).data⟩
  | dacSent ch v a rest => exact h.afterDac ch v a rest
  | dacFailed ch v rest =>
    exact h.strobed rfl rfl rfl rfl rfl (fun p => lastLevel_dacFailEvents p _ ch v _) (fun c => lastDacFrame_dacFailEvents c _ ch v _)
  | dacInit ch => exact h.strobed rfl rfl rfl rfl rfl (fun p => lastLevel_pin p _ _ _) (fun c => lastDacFrame_pin c _ _ _)
  | tecEn ch f => exact h.afterTec ch f
  | pid ch | iir ch | sh ch | pwm ch | center ch | pidEngaged ch | iirEngaged ch | mtxSel ch | disengage ch | calCleared ch =>
    exact h.updCh rfl rfl (h.channel ch).data
  | capture ch k =>
    obtain ⟨k', hk⟩ := Channel.captureCal_eq_with (b.ch.get ch) k
    exact h.updCh (by rw [hk]) (by rw [hk]) (by rw [hk]; exact (h.channel ch).data)
  | calibrated ch m target best =>
    obtain ⟨v, f, e, hcal⟩ := Channel.calibrated_eq_with (b.ch.get ch) m target best
    exact h.updCh (by simp only [hcal]) (by simp only [hcal]) (by simp only [hcal]; exact (h.channel ch).data)
  | sampled ch code now =>
    refine h.updCh rfl rfl ?_
    by_cases hcode : code = b.cfg.sentinel <;> simp [Channel.sampled, hcode]

theorem Reach.sound {i : Instr} {b b' : Block} (hr : Reach i b b') (h : BlockSound b) : BlockSound b' := by
  induction hr with
  | refl => exact h
  | tail _ he ih => exact he.sound ih

/-- R81: a result event is of no pin and no DAC. -/
theorem BlockSound.finish {b : Block} (h : BlockSound b) (status : BitVec 8) (r : Results) : BlockSound (b.finish status r) :=
  ⟨h.nss, h.released, h.family, fun c => (h.channel c).congr rfl rfl rfl rfl rfl rfl rfl (h.channel c).data⟩

/-! Every step keeps the machine in order. -/

theorem exec_inOrder {i : Instr} {s t : State} (hs : BlockSound s.toBlock) (h : exec i s = .next t) : InOrder t := by
  obtain ⟨b, hreach, hend⟩ := exec_ends h
  have hb := hreach.sound hs
  cases hend with
  | completed r => exact ⟨(blockOk_iff _).mpr (hb.finish _ _), rfl⟩
  | raised e => exact ⟨(blockOk_iff _).mpr (hb.finish _ _), rfl⟩
  | paused => exact ⟨(blockOk_iff _).mpr hb, (blockOk_iff _).mpr hs⟩

theorem runRaw_inOrder {raw : Raw} {s t : State} (hs : BlockSound s.toBlock) (h : runRaw raw s = .next t) : InOrder t := by
  unfold runRaw at h
  cases hdec : decode s.cfg.tables raw with
  | ok i => rw [hdec] at h; exact exec_inOrder hs h
  | error e =>
    rw [hdec] at h
    obtain rfl : _ = t := by injection h
    exact ⟨(blockOk_iff _).mpr (hs.finish _ _), rfl⟩

/-- More retries granted change nothing of the order. -/
theorem Running.resumed_sound {r : Running} (h : BlockSound r.entry) : BlockSound r.resumed :=
  ⟨h.nss, h.released, h.family, fun c => (h.channel c).congr rfl rfl rfl rfl rfl rfl rfl (h.channel c).data⟩

/-- Settles O9: every effect keeps the block in order, and so does the end of a command; a command in progress keeps the block it
began with. -/
theorem stepKeepsInv : Obligations.StepKeepsInv := by
  unfold Obligations.StepKeepsInv
  rintro s t ⟨hblock, hrunning⟩ hstep
  have hs := (blockOk_iff _).mp hblock
  unfold step advance at hstep
  cases hrun : s.running with
  | some r =>
    rw [hrun] at hrunning hstep
    exact exec_inOrder (Running.resumed_sound ((blockOk_iff _).mp hrunning)) hstep
  | none =>
    rw [hrun] at hstep
    cases hfetch : s.fetch with
    | some raw => rw [hfetch] at hstep; exact runRaw_inOrder (s := s.taken) hs hstep
    | none =>
      rw [hfetch] at hstep
      obtain rfl : s = t := by injection hstep
      exact ⟨hblock, by rw [hrun]; rfl⟩

end Sys2Proof.Machine
end

section
/-! The commands of the ADC protocol (42_adc_protocol.md): a command as the frames it exchanges, with the retries of its loops, and
the two ways an ADC frame ends. -/

namespace Sys2Proof.Machine

open Safety

/-! One frame. -/

theorem adcParts_append_error {xs ys : List (List Byte)} {inns : List (List Byte)} {b c d : Block} {e : Stop}
    (hxs : adcParts xs b = .ok inns c) (hys : adcParts ys c = .error e d) : adcParts (xs ++ ys) b = .error e d := by
  induction xs generalizing inns b with
  | nil =>
    injection hxs with _ hbc
    rw [List.nil_append, hbc, hys]
  | cons out xs ih =>
    obtain ⟨inn, b1, hx, hrest⟩ := Cmd.bind_ok_iff.mp hxs
    obtain ⟨inns', b2, hxs', hend⟩ := Cmd.bind_ok_iff.mp hrest
    injection hend with _ hbc
    rw [List.cons_append, adcParts, Cmd.run_bind_ok hx, Cmd.run_bind_error (ih (hbc ▸ hxs'))]

theorem adcParts_cons_fails {b : Block} {a : Answer} {rest : List Answer} (hs : b.script = a :: rest) (ha : a.fails = true)
    (out : List Byte) (later : List (List Byte)) :
    adcParts (out :: later) b =
      .error (.raised (.transport .adc))
        { b with script := rest, ports := b.ports + 1, hist := .spiFail .adc out :: b.hist } := by
  have hx : spiXfer .adc out b = .error (.raised (.transport .adc))
      { b with script := rest, ports := b.ports + 1, hist := .spiFail .adc out :: b.hist } := by
    rw [run_spiXfer, nextAnswer_cons hs, ha, if_pos rfl]
    simp only [Block.record, Block.consumed, hs, List.tail_cons]
  rw [adcParts, Cmd.run_bind_error hx]

/-- Settles O19: the parts that succeed, then the end of the frame or the transfer that fails. -/
theorem adcFrameReleasesChipSelect : Obligations.AdcFrameReleasesChipSelect := by
  unfold Obligations.AdcFrameReleasesChipSelect
  intro b parts as a rest hgood hfail
  refine ⟨fun hlen hscript => ?answered, fun out later hlen hscript => ?failed⟩
  case answered =>
    have hparts := adcParts_ok parts as rest (b.drive .nssAdc .low) hlen hgood hscript
    simp only [adcFrame, Cmd.run_bind, Cmd.run_pinSet, Cmd.run_onStop, hparts, Cmd.run_pure]
    rfl
  case failed =>
    have hparts := adcParts_append_error (adcParts_ok parts as (a :: rest) (b.drive .nssAdc .low) hlen hgood hscript)
      (adcParts_cons_fails rfl hfail out later)
    simp only [adcFrame, Cmd.run_bind, Cmd.run_pinSet, Cmd.run_onStop, hparts]
    rfl

/-! A command as an exchange. -/

/-- A command that ends well after exchanging some frames. -/
theorem exec_exchanged {i : Instr} {s : State} {fs : List Safety.Frame} {r : Results} {c : Block} {as rest : List Answer}
    (hx : (bodyOf i).Exchanges s.toBlock fs r c) (h : converses s.toBlock fs as rest) :
    exec i s = .next (completed s (c.onPort rest (s.ports + as.length) (framesEvents fs as ++ s.hist)) r) := by
  rw [exec_eq, hx.run h, settle_ok]
  rfl

namespace Cmd.Exchanges

variable {α β : Type} {b c d : Block} {fs gs : List Safety.Frame} {v : α} {w : β}

/-- A computation made first that neither uses the port nor changes the block. -/
theorem ok_bind {x : Cmd α} {f : α → Cmd β} (hx : ∀ s n h, x (b.onPort s n h) = .ok v (b.onPort s n h))
    (hf : (f v).Exchanges b fs w d) : (x >>= f).Exchanges b fs w d := by
  intro as rest n h hconv
  rw [Cmd.run_bind_ok (hx _ _ _), hf as rest n h hconv]

theorem requireLegal_bind {ok : Bool} {f : Unit → Cmd β} (hok : ok = true) (hf : (f ()).Exchanges b fs w d) :
    (requireLegal ok >>= f).Exchanges b fs w d :=
  ok_bind (v := ()) (fun _ _ _ => by rw [Cmd.run_requireLegal, hok, if_pos rfl]) hf

theorem requireReg_bind {ok : Bool} {a : RegAddr} {f : Unit → Cmd β} (hok : ok = true) (hf : (f ()).Exchanges b fs w d) :
    (requireReg ok a >>= f).Exchanges b fs w d :=
  ok_bind (v := ()) (fun _ _ _ => by rw [requireReg, hok, if_pos rfl, Cmd.run_pure]) hf

/-- An answer computed last. -/
theorem map {x : Cmd α} {f : α → β} (hx : x.Exchanges b fs v c) : (x >>= fun a => Pure.pure (f a)).Exchanges b fs (f v) c :=
  bind_last hx (fun _ _ _ => rfl)

end Cmd.Exchanges

/-! A conversation, seen from another block. -/

theorem converses_nil {b : Block} {as rest : List Answer} (h : converses b [] as rest) : as = [] := by
  obtain ⟨-, hanswered, -⟩ := h
  cases as with
  | nil => rfl
  | cons a as => exact nomatch hanswered

/-- What the agents answer is said of the tables and the answers to come alone. -/
theorem converses_congr {b c : Block} {fs : List Safety.Frame} {as rest : List Answer} (h : converses b fs as rest)
    (hcfg : c.cfg = b.cfg) (hscript : c.script = as ++ rest) : converses c fs as rest := by
  obtain ⟨hsound, hanswered, -⟩ := h
  exact ⟨hcfg ▸ hsound, hanswered, hscript⟩

/-! R219: the retries of a loop. Refused turns are counted; `c k` is the block after k of them. -/

section Retries

variable {α γ : Type} {loop : LoopId} {body : Unit → Cmd (Turn α Unit)} {turn : γ → List Safety.Frame} {c : Nat → Block}

/-- Refused turns within the budget, one after the other. -/
theorem retryFrom_refused (hcfg : ∀ k, (c k).cfg = (c 0).cfg) (bad : List γ)
    (ht : ∀ k, ∀ q ∈ bad, (body ()).Exchanges (c k) (turn q) (.again ()) (c (k + 1)))
    {fuel k n : Nat} {h : List Event} {as rest : List Answer}
    (hl : ∀ limit, (c 0).cfg.retryLimit = some limit → k + bad.length ≤ limit)
    (hconv : converses ((c k).onPort (as ++ rest) n h) (bad.flatMap turn) as rest) :
    retryFrom loop body (fuel + bad.length) k () ((c k).onPort (as ++ rest) n h) =
      retryFrom loop body fuel (k + bad.length) ()
        ((c (k + bad.length)).onPort rest (n + as.length) (framesEvents (bad.flatMap turn) as ++ h)) := by
  induction bad generalizing k n h as with
  | nil =>
    obtain rfl := converses_nil hconv
    rfl
  | cons q bad ih =>
    rw [List.flatMap_cons] at hconv ⊢
    obtain ⟨xs, ys, rfl, hfirst, hothers, hjoin⟩ := converses_append hconv
    have hevents : framesEvents (bad.flatMap turn) ys ++ (framesEvents (turn q) xs ++ h) =
        framesEvents (turn q ++ bad.flatMap turn) (xs ++ ys) ++ h := congrArg Block.hist (hjoin rest)
    rw [List.length_cons] at hl ⊢
    rw [List.append_assoc] at hfirst ⊢
    have hstep := ht k q (.head _) xs (ys ++ rest) n h hfirst
    have hcfg' : (c (k + 1)).cfg = (c k).cfg := (hcfg _).trans (hcfg _).symm
    have hbudget : ∀ limit, (c (k + 1)).cfg.retryLimit = some limit → k + 1 ≤ limit := fun limit hlimit => by
      have := hl limit (hcfg (k + 1) ▸ hlimit)
      omega
    have hrest := ih (fun k q hq => ht k q (.tail _ hq)) (k := k + 1) (n := n + xs.length)
      (h := framesEvents (turn q) xs ++ h)
      (fun limit hlimit => by have := hl limit hlimit; omega) (converses_congr hothers hcfg' rfl)
    rw [← Nat.add_assoc, retryFrom_again hstep hbudget, hrest, hevents, List.length_append, Nat.add_assoc n,
      Nat.add_assoc k 1, Nat.add_comm 1]

/-- Refused turns, then one that ends the loop. -/
theorem retryLoop_exchanges (hcfg : ∀ k, (c k).cfg = (c 0).cfg) (bad : List γ)
    (ht : ∀ k, ∀ q ∈ bad, (body ()).Exchanges (c k) (turn q) (.again ()) (c (k + 1)))
    (hbudget : mayRetry (c 0) bad.length) {gs : List Safety.Frame} {v : α} {d : Block}
    (hdone : (body ()).Exchanges (c bad.length) gs (.done v) d) :
    (retryLoop loop body ()).Exchanges (c 0) (bad.flatMap turn ++ gs) v d := by
  intro as rest n h hconv
  obtain ⟨xs, ys, rfl, hbad, hgood, hjoin⟩ := converses_append hconv
  have hevents : framesEvents gs ys ++ (framesEvents (bad.flatMap turn) xs ++ h) =
      framesEvents (bad.flatMap turn ++ gs) (xs ++ ys) ++ h := congrArg Block.hist (hjoin rest)
  obtain ⟨fuel, hfuel⟩ := Nat.exists_eq_add_of_le' (mayRetry_fuel hbudget)
  have hl : ∀ limit, (c 0).cfg.retryLimit = some limit → 0 + bad.length ≤ limit := fun limit hlimit => by
    rw [mayRetry, hlimit] at hbudget
    rwa [Nat.zero_add]
  rw [List.append_assoc] at hbad ⊢
  have hrefused := retryFrom_refused (loop := loop) hcfg bad ht (fuel := fuel) hl hbad
  rw [Nat.zero_add] at hrefused
  have hend := hdone ys rest (n + xs.length) (framesEvents (bad.flatMap turn) xs ++ h)
    (converses_congr hgood (hcfg bad.length) rfl)
  rw [retryLoop_eq]
  calc retryFrom loop body (c 0).retryFuel 0 () ((c 0).onPort (xs ++ (ys ++ rest)) n h)
      = retryFrom loop body fuel bad.length () ((c bad.length).onPort (ys ++ rest) (n + xs.length)
          (framesEvents (bad.flatMap turn) xs ++ h)) := by rw [hfuel, hrefused]
    _ = .ok v (d.onPort rest (n + xs.length + ys.length) (framesEvents gs ys ++ (framesEvents (bad.flatMap turn) xs ++ h))) :=
        retryFrom_done hend
    _ = _ := by rw [hevents, List.length_append, Nat.add_assoc]

/-- How a loop ends whose next retry is one too many (R219, log 5). -/
def outOfRetries (loop : LoopId) (b : Block) : Stop :=
  match b.cfg.retryLimit with
  | some _ => .raised (.retriesExhausted loop)
  | none => .paused

/-- One refused turn more than the loop may retry. -/
theorem retryLoop_refused (hcfg : ∀ k, (c k).cfg = (c 0).cfg) (bad : List γ)
    (ht : ∀ k, ∀ q ∈ bad, (body ()).Exchanges (c k) (turn q) (.again ()) (c (k + 1)))
    (hlen : bad.length = (c 0).retryFuel + 1) {n : Nat} {h : List Event} {as rest : List Answer}
    (hconv : converses ((c 0).onPort (as ++ rest) n h) (bad.flatMap turn) as rest) :
    retryLoop loop body () ((c 0).onPort (as ++ rest) n h) =
      .error (outOfRetries loop (c 0))
        ((c bad.length).onPort rest (n + as.length) (framesEvents (bad.flatMap turn) as ++ h)) := by
  obtain rfl | ⟨others, last, rfl⟩ := bad.eq_nil_or_concat'
  · exact absurd hlen (Nat.succ_ne_zero _).symm
  rw [List.flatMap_append, List.flatMap_singleton] at hconv ⊢
  obtain ⟨xs, ys, rfl, hothers, hlast, hjoin⟩ := converses_append hconv
  have hevents : framesEvents (turn last) ys ++ (framesEvents (others.flatMap turn) xs ++ h) =
      framesEvents (others.flatMap turn ++ turn last) (xs ++ ys) ++ h := congrArg Block.hist (hjoin rest)
  have hfuel : (c 0).retryFuel = others.length := by rw [List.length_append, List.length_singleton] at hlen; omega
  have hlimit : ∀ limit, (c 0).cfg.retryLimit = some limit → limit = others.length := fun limit hl => by
    rw [← hfuel, Block.retryFuel, hl]
  rw [List.append_assoc] at hothers ⊢
  have hrefused := retryFrom_refused (loop := loop) hcfg others (fun k q hq => ht k q (List.mem_append_left _ hq)) (fuel := 0)
    (fun limit hl => by rw [hlimit limit hl, Nat.zero_add]) hothers
  rw [Nat.zero_add] at hrefused
  have hturn := ht others.length last (List.mem_append_right _ (.head _)) ys rest (n + xs.length)
    (framesEvents (others.flatMap turn) xs ++ h) (converses_congr hlast (hcfg others.length) rfl)
  have hlimit' := congrArg Params.retryLimit (hcfg (others.length + 1))
  rw [retryLoop_eq, show ((c 0).onPort (xs ++ (ys ++ rest)) n h).retryFuel = others.length from hfuel, hrefused,
    List.length_append, List.length_singleton, ← hevents, List.length_append, ← Nat.add_assoc, outOfRetries]
  cases hl : (c 0).cfg.retryLimit with
  | none => exact retryFrom_paused hturn (hlimit'.trans hl)
  | some limit => exact retryFrom_exhausted hturn (hlimit'.trans (hlimit limit hl ▸ hl))

end Retries

end Sys2Proof.Machine
end

section
/-! The commands of the ADC protocol against answers that a statement describes. -/

namespace Sys2Proof.Machine

open Safety

/-! The counters after a number of refused turns (R30: they wrap). -/

def Block.countRead (b : Block) (k : Nat) : Block := { b with rc := { b.rc with read := b.rc.read + BitVec.ofNat 32 k } }

def Block.countWrite (b : Block) (k : Nat) : Block := { b with rc := { b.rc with write := b.rc.write + BitVec.ofNat 32 k } }

def Block.countId (b : Block) (k : Nat) : Block := { b with rc := { b.rc with id := b.rc.id + BitVec.ofNat 32 k } }

theorem Block.countRead_zero (b : Block) : b.countRead 0 = b := by simp [countRead]

theorem Block.countWrite_zero (b : Block) : b.countWrite 0 = b := by simp [countWrite]

theorem Block.countId_zero (b : Block) : b.countId 0 = b := by simp [countId]

theorem Block.bumpRead_countRead (b : Block) (k : Nat) : (b.countRead k).bumpRead = b.countRead (k + 1) := by
  simp [countRead, bumpRead, BitVec.ofNat_add, BitVec.add_assoc]

theorem Block.bumpWrite_countWrite (b : Block) (k : Nat) : (b.countWrite k).bumpWrite = b.countWrite (k + 1) := by
  simp [countWrite, bumpWrite, BitVec.ofNat_add, BitVec.add_assoc]

theorem Block.bumpId_countId (b : Block) (k : Nat) : (b.countId k).bumpId = b.countId (k + 1) := by
  simp [countId, bumpId, BitVec.ofNat_add, BitVec.add_assoc]

/-! The turns of the three loops. -/

section Turns

variable {b : Block} {m : CkMode}

theorem readTurn_refused (a : RegAddr) (q : List Byte × Byte) (hn : b.nss = .high) (hm : b.ckmode = m) :
    (readTurn a ()).Exchanges b [.corrupt m a q.1 q.2] (.again ()) b.bumpRead :=
  fun _ _ _ _ h => readTurn_corrupt hn hm h

theorem readTurn_accepted (a : RegAddr) (p : List Byte) (hn : b.nss = .high) (hm : b.ckmode = m) :
    (readTurn a ()).Exchanges b [.read m a p] (.done p) b := fun _ _ _ _ h => readTurn_good hn hm h

theorem writeTurn_refused (a : RegAddr) {p q : List Byte} (hq : q ≠ p) (hn : b.nss = .high) (hm : b.ckmode = m) :
    (writeTurn a p ()).Exchanges b [.write m a p, .read m a q] (.again ()) b.bumpWrite :=
  fun _ _ _ _ h => writeTurn_mismatch hn hm hq h

theorem writeOnce_exchanges (a : RegAddr) (p : List Byte) (hn : b.nss = .high) (hm : b.ckmode = m) :
    (writeOnce a p).Exchanges b [.write m a p] () b := fun _ _ _ _ h => writeOnce_sent hn hm h

theorem readReg_exchanges (a : RegAddr) (p : List Byte) (hn : b.nss = .high) (hm : b.ckmode = m) :
    (readReg a).Exchanges b [.read m a p] p b := fun _ _ _ _ h => readReg_good hn hm h

theorem writeTurn_accepted (a : RegAddr) (p : List Byte) (hn : b.nss = .high) (hm : b.ckmode = m) :
    (writeTurn a p ()).Exchanges b [.write m a p, .read m a p] (.done ()) b := by
  refine Cmd.Exchanges.bind (fs := [_]) (gs := [_]) (writeOnce_exchanges a p hn hm) rfl ?_
  exact Cmd.Exchanges.bind_last (readReg_exchanges a p hn hm) (fun _ _ _ => by rw [if_pos rfl]; rfl)

/-- R136: one reading of the ID. -/
theorem identifyTurn_exchanges (p : List Byte) (hn : b.nss = .high) (hm : b.ckmode = m) :
    (identifyTurn ()).Exchanges b [.read m b.regs.id p]
      (if isFamily b.cfg ((be p).setWidth 16) then .done ((be p).setWidth 16) else .again ())
      (if isFamily b.cfg ((be p).setWidth 16) then b.setAdcId ((be p).setWidth 16) else b.bumpId) := by
  refine Cmd.Exchanges.look_bind (fun _ _ _ => rfl) (Cmd.Exchanges.bind_last (readValue_exchanges _ p hn hm) (fun s n h => ?_))
  have hfamily : (b.onPort s n h).cfg.ofFamily ((be p).setWidth 16) = isFamily b.cfg ((be p).setWidth 16) := ofFamily_eq _ _
  simp only [Cmd.run_bind, Cmd.run_look, hfamily]
  cases isFamily b.cfg ((be p).setWidth 16) <;> rfl

end Turns

/-! The loops, with the turns they refuse. -/

/-- R130. -/
theorem readValue_retried {b : Block} {m : CkMode} (a : RegAddr) (p : List Byte) (bad : List (List Byte × Byte))
    (hn : b.nss = .high) (hm : b.ckmode = m) (hb : mayRetry b bad.length) :
    (readValue a).Exchanges b (bad.map (fun q => Frame.corrupt m a q.1 q.2) ++ [.read m a p]) (be p) (b.countRead bad.length) := by
  have hloop := retryLoop_exchanges (loop := .read) (body := readTurn a) (c := b.countRead) (fun _ => rfl) bad
    (turn := fun q => [Frame.corrupt m a q.1 q.2]) (fun k q _ => b.bumpRead_countRead k ▸ readTurn_refused a q hn hm)
    hb (readTurn_accepted a p hn hm)
  rw [b.countRead_zero] at hloop
  rw [List.map_eq_flatMap]
  exact Cmd.Exchanges.map hloop

/-- R132. -/
theorem writeReg_retried {b : Block} {m : CkMode} (a : RegAddr) (p : List Byte) (bad : List (List Byte)) (hn : b.nss = .high)
    (hm : b.ckmode = m) (hbad : ∀ q ∈ bad, q ≠ p) (hb : mayRetry b bad.length) :
    (writeReg a p).Exchanges b (bad.flatMap (fun q => [.write m a p, .read m a q]) ++ [.write m a p, .read m a p]) ()
      (b.countWrite bad.length) := by
  have hloop := retryLoop_exchanges (loop := .write) (body := writeTurn a p) (c := b.countWrite) (fun _ => rfl) bad
    (turn := fun q => [Frame.write m a p, .read m a q])
    (fun k q hq => b.bumpWrite_countWrite k ▸ writeTurn_refused a (hbad q hq) hn hm) hb (writeTurn_accepted a p hn hm)
  rwa [b.countWrite_zero] at hloop

/-- R136. -/
theorem identify_retried {b : Block} {m : CkMode} (p : List Byte) (bad : List (List Byte)) (hn : b.nss = .high)
    (hm : b.ckmode = m) (hbad : ∀ q ∈ bad, isFamily b.cfg ((be q).setWidth 16) = false)
    (hp : isFamily b.cfg ((be p).setWidth 16) = true) (hb : mayRetry b bad.length) :
    identify.Exchanges b (bad.map (Frame.read m b.regs.id) ++ [.read m b.regs.id p]) ((be p).setWidth 16)
      ((b.countId bad.length).setAdcId ((be p).setWidth 16)) := by
  have hrefused : ∀ k, ∀ q ∈ bad,
      (identifyTurn ()).Exchanges (b.countId k) [.read m b.regs.id q] (.again ()) (b.countId (k + 1)) := fun k q hq => by
    have hturn := identifyTurn_exchanges (b := b.countId k) q hn hm
    rw [show isFamily (b.countId k).cfg _ = false from hbad q hq] at hturn
    exact b.bumpId_countId k ▸ hturn
  have haccepted := identifyTurn_exchanges (b := b.countId bad.length) p hn hm
  rw [show isFamily (b.countId bad.length).cfg _ = true from hp] at haccepted
  have hloop := retryLoop_exchanges (loop := .id) (c := b.countId) (fun _ => rfl) bad (turn := fun q => [.read m b.regs.id q])
    hrefused hb haccepted
  rw [b.countId_zero] at hloop
  rw [List.map_eq_flatMap]
  exact hloop

/-! The statements. -/

/-- Settles O20: the reset frame is an exchange of its own, and a failing transfer ends the body there. -/
theorem adcResetCompletes : Obligations.AdcResetCompletes := by
  unfold Obligations.AdcResetCompletes
  intro s as rest hn
  refine ⟨fun hconv => ?sent, fun a hs ha => ?failed⟩
  case sent =>
    have hreset := Cmd.Exchanges.map (f := fun _ => noResult) (resetAdc_exchanges (b := s.toBlock) hn)
    exact ⟨exec_exchanged (i := .adcReset) hreset hconv, exec_exchanged (i := .spiResetFrame) hreset hconv⟩
  case failed =>
    have hreset := resetAdc_fails (b := s.toBlock) hn hs ha
    exact ⟨runCommand_failed (Cmd.run_bind_error hreset _), runCommand_failed (Cmd.run_bind_error hreset _)⟩

/-- Settles O21: the loop's refused turns, each counted, then the accepted one. -/
theorem adcReadRegCompletes : Obligations.AdcReadRegCompletes := by
  unfold Obligations.AdcReadRegCompletes
  intro s a p bad as rest hn hknown hb hconv
  exact exec_exchanged (i := .adcReadReg a) (.look_bind (fun _ _ _ => rfl) (.requireLegal_bind hknown
    (.map (readValue_retried a p bad hn rfl hb)))) hconv

/-- Settles O23: each command is one read and a report of its value. -/
theorem adcReadsComplete : Obligations.AdcReadsComplete := by
  unfold Obligations.AdcReadsComplete
  intro s st p i as rest hn t
  refine ⟨fun hconv => ?status, fun hconv => ?data, fun hconv => ?filter⟩
  case status =>
    have hready : (t.readyChannel (be st)).map (BitVec.ofNat 32) =
        if isReady t st then some (BitVec.ofNat 32 (fieldOf t.channel (be st))) else none := by
      rw [RegTable.readyChannel, statusReady_eq, statusChannel_eq]
      cases isReady t st <;> rfl
    rw [← hready]
    exact exec_exchanged (i := .adcDataReady) (.bind_last (readStatus_exchanges (b := s.toBlock) st hn rfl) (fun _ _ _ => rfl)) hconv
  case data =>
    exact exec_exchanged (i := .adcReadData) (.look_bind (fun _ _ _ => rfl) (.map (readValue_exchanges _ p hn rfl))) hconv
  case filter =>
    rw [← regIndexed_eq] at hconv ⊢
    rw [← postfilterOf_eq]
    exact exec_exchanged (i := .adcGetPostfilter i) (.look_bind (fun _ _ _ => rfl) (.map (readValue_exchanges _ p hn rfl))) hconv

/-- R219: the reads of a register, all refused, one more than the loop may retry. -/
theorem readValue_refused {b : Block} {m : CkMode} (a : RegAddr) (bad : List (List Byte × Byte)) (hn : b.nss = .high)
    (hm : b.ckmode = m) (hlen : bad.length = b.retryFuel + 1) {as rest : List Answer}
    (hconv : converses b (bad.map (fun q => Frame.corrupt m a q.1 q.2)) as rest) :
    readValue a b = .error (outOfRetries .read b)
      ((afterFrames b (bad.map (fun q => Frame.corrupt m a q.1 q.2)) as rest).countRead bad.length) := by
  have hb : (b.countRead 0).onPort (as ++ rest) b.ports b.hist = b := by
    obtain ⟨-, -, hscript⟩ := hconv
    rw [← hscript, b.countRead_zero]
    rfl
  have hloop := retryLoop_refused (loop := .read) (body := readTurn a) (c := b.countRead) (fun _ => rfl) bad
    (turn := fun q => [Frame.corrupt m a q.1 q.2]) (fun k q _ => b.bumpRead_countRead k ▸ readTurn_refused a q hn hm) hlen
    (n := b.ports) (h := b.hist) (as := as) (rest := rest) (by rwa [hb, ← List.map_eq_flatMap])
  rw [hb, ← List.map_eq_flatMap] at hloop
  exact Cmd.run_bind_error hloop _

/-- Settles O22: the refused turns are one more than the loop may retry, so it ends on the last, raised or paused by RETRY_LIMIT.
-/
theorem adcReadRegRetryBudget : Obligations.AdcReadRegRetryBudget := by
  unfold Obligations.AdcReadRegRetryBudget
  intro s a bad as rest hn hknown hconv
  have hbody : bad.length = s.retryFuel + 1 → bodyAdcReadReg a s.toBlock = .error (outOfRetries .read s.toBlock)
      ((afterFrames s.toBlock (bad.map (fun q => Frame.corrupt s.ckmode a q.1 q.2)) as rest).countRead bad.length) := fun hlen => by
    have hlegal : requireLegal (s.regs.known a) s.toBlock = .ok () s.toBlock := by
      rw [Cmd.run_requireLegal, show s.regs.known a = true from hknown, if_pos rfl]
    rw [bodyAdcReadReg, Cmd.run_bind_ok (Cmd.run_lookReg _ _), Cmd.run_bind_ok hlegal,
      Cmd.run_bind_error (readValue_refused a bad hn rfl hlen hconv)]
  refine ⟨fun limit hlimit hlen => ?exhausted, fun hlimit hlen => ?paused⟩
  case exhausted =>
    refine runCommand_failed (e := .retriesExhausted .read) ((hbody ?_).trans ?_)
    · rw [hlen, Block.retryFuel, hlimit]
    · rw [outOfRetries, hlimit]
      rfl
  case paused =>
    have hpaused := hbody (by rw [hlen, Block.retryFuel, hlimit])
    rw [outOfRetries, hlimit] at hpaused
    rw [exec_eq]
    exact congrArg (fun r => Host.Outcome.next (settle (.adcReadReg a) s r)) hpaused

/-- A register operand that fits (R149, R150). -/
theorem operandRegValue_bind {β : Type} {b d : Block} {a : RegAddr} {fs : List Safety.Frame} {w : β} {f : BitVec 32 → Cmd β}
    (hfits : b.opD.toNat < 2 ^ (8 * b.regs.width a)) (hf : (f b.opD).Exchanges b fs w d) :
    (operandRegValue a >>= f).Exchanges b fs w d :=
  .ok_bind (v := b.opD) (fun s n h => by
    have hok : (b.onPort s n h).regs.fits a (b.onPort s n h).opD = true := decide_eq_true hfits
    simp only [operandRegValue, Cmd.run_bind, Cmd.run_look, Cmd.run_lookReg, Cmd.run_requireLegal, hok, if_true, Cmd.run_pure]
    rfl) hf

theorem operandRegMask_bind {β : Type} {b d : Block} {a : RegAddr} {fs : List Safety.Frame} {w : β} {f : BitVec 32 → Cmd β}
    (hfits : b.opM.toNat < 2 ^ (8 * b.regs.width a)) (hf : (f b.opM).Exchanges b fs w d) :
    (operandRegMask a >>= f).Exchanges b fs w d :=
  .ok_bind (v := b.opM) (fun s n h => by
    have hok : (b.onPort s n h).regs.fits a (b.onPort s n h).opM = true := decide_eq_true hfits
    simp only [operandRegMask, Cmd.run_bind, Cmd.run_look, Cmd.run_lookReg, Cmd.run_requireLegal, hok, if_true, Cmd.run_pure]
    rfl) hf

/-- Settles O24: the operand fits, and the loop's refused turns, each counted, come before the one that agrees. -/
theorem adcWriteRegCompletes : Obligations.AdcWriteRegCompletes := by
  unfold Obligations.AdcWriteRegCompletes
  intro s a bad as rest t hn hwritable hfits hb hbad w fs hconv
  exact exec_exchanged (i := .adcWriteReg a) (.look_bind (fun _ _ _ => rfl) (.requireLegal_bind hwritable
    (operandRegValue_bind hfits (.look_bind (fun _ _ _ => rfl) (.map (writeReg_retried a _ bad hn rfl hbad hb)))))) hconv

/-- R133, R58: a payload's value with some of its low bits replaced is still the value of a payload of that length. -/
theorem withBits_be_lt (p : List Byte) {mask new : BitVec 32} (hnew : new.toNat < 2 ^ (8 * p.length)) :
    (withBits mask new (be p)).toNat < 2 ^ (8 * p.length) := by
  have hp : (be p).toNat < 2 ^ (8 * p.length) :=
    Nat.lt_pow_two_of_testBit _ fun i hi => getLsbD_be_of_le p hi
  rw [withBits, BitVec.toNat_or, BitVec.toNat_and, BitVec.toNat_and]
  exact Nat.or_lt_two_pow (Nat.and_le_left.trans_lt hp) (Nat.and_le_left.trans_lt hnew)

/-- Settles O25: one update, whose value read back is the merged one because it still fits the register. -/
theorem adcUpdateRegCompletes : Obligations.AdcUpdateRegCompletes := by
  unfold Obligations.AdcUpdateRegCompletes
  intro s a p as rest t hn hwritable hvalue hmask hconv
  have hwidth : p.length = t.width a := by
    obtain ⟨hsound, -, -⟩ := hconv
    simpa [updateFrames, Frame.sound] using (List.all_eq_true.mp hsound) _ (.head _)
  have hrD : be (bytesBe p.length (withBits s.opM s.opD (be p))) = withBits s.opM s.opD (be p) :=
    be_bytesBe (withBits_be_lt p (hwidth ▸ hvalue))
  rw [← hrD]
  exact exec_exchanged (i := .adcUpdateReg a) (.look_bind (fun _ _ _ => rfl) (.requireLegal_bind hwritable
    (operandRegValue_bind hvalue (operandRegMask_bind hmask (.map (updateReg_exchanges a p _ hn rfl)))))) hconv

/-- Settles O26: the ID loop with its refused turns. -/
theorem adcIdentifyCompletes : Obligations.AdcIdentifyCompletes := by
  unfold Obligations.AdcIdentifyCompletes
  intro s bad p as rest hn hb hbad hp fs hconv
  exact exec_exchanged (i := .adcIdentify) (.map (identify_retried p bad hn rfl hbad hp hb)) hconv

/-- Settles O27: the update in the old mode, then the local mode. -/
theorem adcSetChecksumModeCompletes : Obligations.AdcSetChecksumModeCompletes := by
  unfold Obligations.AdcSetChecksumModeCompletes
  intro s m p as rest hn fs hconv
  exact exec_exchanged (i := .adcSetChecksumMode m) (.map (setChecksumMode_exchanges m p hn rfl)) hconv

/-- Settles O28: the selectors are legal, so the three updates follow. -/
theorem adcSetupChannelCompletes : Obligations.AdcSetupChannelCompletes := by
  unfold Obligations.AdcSetupChannelCompletes
  intro s i inPos inNeg p1 p2 p3 as rest hn hpos hneg fs hconv
  have hlegal : (s.cfg.tables.regs.selectorLegal inPos && s.cfg.tables.regs.selectorLegal inNeg) = true := by
    simp [RegTable.selectorLegal, hpos, hneg]
  exact exec_exchanged (i := .adcSetupChannel i inPos inNeg) (.look_bind (fun _ _ _ => rfl) (.requireLegal_bind hlegal
    (.map (setupChannel_exchanges i inPos inNeg p1 p2 p3 hn rfl)))) hconv

/-- Settles O29: the two updates about the ready wait. -/
theorem adcCalibrateOffsetCompletes : Obligations.AdcCalibrateOffsetCompletes := by
  unfold Obligations.AdcCalibrateOffsetCompletes
  intro s p q waits st as rest t hn hb hwaits hst hconv
  exact exec_exchanged (i := .adcCalibrateOffset) (.map (calibrateOffset_exchanges p q waits st hn rfl hwaits hst hb)) hconv

/-- R140: bit 24 of the gain word. -/
theorem calGainWord_calRecord (t : RegTable) (o g su : List Byte) :
    calGainWord (calRecord t o g su) = (((be g).setWidth 24).setWidth 32) |||
      (if fieldOf t.biUnipolar (be su) = 1 then 0x01000000#32 else 0#32) := by
  simp only [calGainWord, calRecord]
  by_cases h : fieldOf t.biUnipolar (be su) = 1 <;> simp [h]

/-- Settles O30: the three reads, and the capture of what they say. -/
theorem adcGetCalibrationCompletes : Obligations.AdcGetCalibrationCompletes := by
  unfold Obligations.AdcGetCalibrationCompletes
  intro s i o g su as rest hn t hconv
  rw [← calGainWord_calRecord t o g su]
  exact exec_exchanged (i := .adcGetCalibration i) (.map (getCalibration_exchanges i o g su hn rfl)) hconv

theorem setPostfilter_some_eq (t : RegTable) (c : BitVec 3) :
    t.setPostfilter (some c) = withFields [(t.enhFiltEn, 1), (t.enhFilt, c.toNat)] := by
  funext v
  rw [RegTable.setPostfilter, setFields_eq]

theorem setPostfilter_none_eq (t : RegTable) : t.setPostfilter none = withFields [(t.enhFiltEn, 0)] := by
  funext v
  rw [RegTable.setPostfilter, setFields_eq]

theorem bodyAdcSetPostfilter_exchanges {b : Block} {m : CkMode} (i : Ch) (p : List Byte) {code : Option (BitVec 3)}
    (hcode : b.cfg.tables.postfilterOperandLegal code = true) (hn : b.nss = .high) (hm : b.ckmode = m) :
    (bodyAdcSetPostfilter i code).Exchanges b (updateFrames m (b.regs.filtCon + chNumber i) p (b.regs.setPostfilter code))
      noResult b := by
  rw [← regIndexed_eq]
  exact .look_bind (fun _ _ _ => rfl) (.requireLegal_bind hcode (.map (updateReg_exchanges _ p _ hn hm)))

/-- Settles O31: one update, of two fields or of one. -/
theorem adcSetPostfilterCompletes : Obligations.AdcSetPostfilterCompletes := by
  unfold Obligations.AdcSetPostfilterCompletes
  intro s i p as rest hn t a
  refine ⟨?enabled, fun hconv => ?disabled⟩
  case enabled =>
    intro c hc f hconv
    have hlegal : s.cfg.tables.postfilterOperandLegal (some c) = true := List.contains_iff_mem.mpr hc
    have hx := bodyAdcSetPostfilter_exchanges (b := s.toBlock) i p hlegal hn rfl
    rw [setPostfilter_some_eq] at hx
    exact exec_exchanged (i := .adcSetPostfilter i (some c)) hx hconv
  case disabled =>
    have hx := bodyAdcSetPostfilter_exchanges (b := s.toBlock) (code := none) i p rfl hn rfl
    rw [setPostfilter_none_eq] at hx
    exact exec_exchanged (i := .adcSetPostfilter i none) hx hconv

/-! R57, R129, R131: the bare register frames. -/

theorem readOnce_exchanges {b : Block} {m : CkMode} (a : RegAddr) (p : List Byte) (hn : b.nss = .high) (hm : b.ckmode = m) :
    (readOnce a).Exchanges b [.read m a p] (p, true) b := fun _ _ _ _ h => readOnce_good hn hm h

theorem readOnce_corrupt_exchanges {b : Block} {m : CkMode} (a : RegAddr) (p : List Byte) (c : Byte) (hn : b.nss = .high)
    (hm : b.ckmode = m) : (readOnce a).Exchanges b [.corrupt m a p c] (p, false) b := fun _ _ _ _ h => readOnce_corrupt hn hm h

theorem run_requireReg (ok : Bool) (a : RegAddr) (b : Block) :
    requireReg ok a b = if ok then .ok () b else .error (.raised (.illegalCommand (a.setWidth 32))) b := by
  cases ok <;> rfl

/-- Settles O34: the checks pass and one frame follows, or one of them refuses before it. -/
theorem wireRegisterFramesComplete : Obligations.WireRegisterFramesComplete := by
  unfold Obligations.WireRegisterFramesComplete
  intro s a p c as rest hn
  refine ⟨fun hknown hconv => ?read, fun hknown hconv => ?corrupt, fun hwritable hfits hconv => ?write, fun hknown => ?unknown,
    fun hwritable => ?readOnly, fun hwritable hwide => ?wide⟩
  case read =>
    exact exec_exchanged (i := .spiReadCmd a) (.look_bind (fun _ _ _ => rfl) (.requireReg_bind hknown
      (.bind_last (readOnce_exchanges a p hn rfl) (fun _ _ _ => rfl)))) hconv
  case corrupt =>
    exact exec_exchanged (i := .spiReadCmd a) (.look_bind (fun _ _ _ => rfl) (.requireReg_bind hknown
      (.bind_last (readOnce_corrupt_exchanges a p c hn rfl) (fun _ _ _ => rfl)))) hconv
  case write =>
    have hfit : s.cfg.tables.regs.fits a s.opD = true := decide_eq_true hfits
    exact exec_exchanged (i := .spiWriteCmd a) (.look_bind (fun _ _ _ => rfl) (.requireReg_bind hwritable
      (.look_bind (fun _ _ _ => rfl) (.look_bind (fun _ _ _ => rfl) (.requireReg_bind hfit
        (.look_bind (fun _ _ _ => rfl) (.map (writeOnce_exchanges a _ hn rfl)))))))) hconv
  case unknown =>
    have hknown : s.toBlock.regs.known a = false := hknown
    refine runCommand_failed (e := .illegalCommand (a.setWidth 32)) ?_
    simp [bodySpiReadCmd, Cmd.run_bind, run_requireReg, hknown]
  case readOnly =>
    have hwritable : s.toBlock.regs.writable a = false := hwritable
    refine runCommand_failed (e := .illegalCommand (a.setWidth 32)) ?_
    simp [bodySpiWriteCmd, Cmd.run_bind, run_requireReg, hwritable]
  case wide =>
    have hwritable : s.toBlock.regs.writable a = true := hwritable
    have hfit : s.toBlock.regs.fits a s.opD = false := decide_eq_false (Nat.not_lt.mpr hwide)
    refine runCommand_failed (e := .illegalCommand (a.setWidth 32)) ?_
    simp [bodySpiWriteCmd, Cmd.run_bind, run_requireReg, hwritable, hfit]

end Sys2Proof.Machine
end

section
/-! The commands that send a code to a DAC (43_dac.md, 47_channel.md), and the commands that only write or report the block's own
state. -/

namespace Sys2Proof.Machine

open Safety

/-! A command that ends by sending a code. -/

theorem exec_sent {i : Instr} {s : State} {b : Block} {ch : Ch} {v : DacCode} {a : Answer} {rest : List Answer} {r : Results}
    (hbody : bodyOf i s.toBlock = (writeDac ch v >>= fun _ => pure r) b) (hs : b.script = a :: rest) (ha : a.fails = false) :
    exec i s = .next (completed s (afterDac b ch v a rest) r) := by
  rw [exec_eq, hbody, Cmd.run_bind_ok (writeDac_ok ha hs), Cmd.run_pure, settle_ok]
  rfl

/-- R156, R216. -/
theorem exec_notSent {i : Instr} {s : State} {b : Block} {ch : Ch} {v : DacCode} {a : Answer} {rest : List Answer} {r : Results}
    (hbody : bodyOf i s.toBlock = (writeDac ch v >>= fun _ => pure r) b) (hs : b.script = a :: rest) {info : BitVec 32}
    (hinfo : (Port.dac ch).info = info) (ha : a.fails = true) :
    exec i s = .next (failed s (afterDacFail b ch v rest) 1#8 info) := by
  rw [exec_eq, hbody, Cmd.run_bind_error (writeDac_fail ha hs), settle_raised, ← hinfo]
  rfl

/-- Settles O36: both commands come down to one code sent. -/
theorem dacCodeCommandsComplete : Obligations.DacCodeCommandsComplete := by
  unfold Obligations.DacCodeCommandsComplete
  intro s ch v a rest hs
  have hword : bodyOf (.dacWord v) s.toBlock = (writeDac s.wireCh v >>= fun _ => pure noResult) s.toBlock := rfl
  refine ⟨fun hcode => ?code, exec_sent hword hs, exec_notSent hword hs (by cases s.wireCh <;> rfl)⟩
  case code =>
    have hbody : bodyOf (.dacSetCode ch) s.toBlock =
        (writeDac ch (s.opD.setWidth 18) >>= fun _ => pure noResult) s.toBlock := by
      have hmax : ¬ dacMax < s.opD.toNat := Nat.not_lt.mpr hcode
      rw [bodyOf, bodyDacSetCode, Cmd.run_bind_ok (Cmd.run_look _ _), if_neg hmax]
    exact ⟨exec_sent hbody hs, exec_notSent hbody hs (by cases ch <;> rfl)⟩

/-- R157, R37: the nominal full scale is 5.0. -/
theorem nominalCode_eq (x : F64) : nominalCode x = toCode (F64.div (F64.mul x (F64.ofNat 262143)) (F64.ofNat 5)) := by
  rw [nominalCode, show dacFsNominal = F64.ofNat 5 by decide +kernel]
  rfl

/-- Settles O39: one code sent, at the nominal full scale. -/
theorem dacSetVoltsCompletes : Obligations.DacSetVoltsCompletes := by
  unfold Obligations.DacSetVoltsCompletes
  intro s ch a rest hs v
  have hbody : bodyOf (.dacSetVolts ch) s.toBlock = (writeDac ch v >>= fun _ => pure (resultD (v.setWidth 32))) s.toBlock := by
    rw [show v = nominalCode s.opA from (nominalCode_eq s.opA).symm]
    rfl
  exact ⟨exec_sent hbody hs, exec_notSent hbody hs (by cases ch <;> rfl)⟩

/-- R198: the code a manual setting computes from a record does not depend on the engagement it has just cleared. -/
theorem run_setManual {b : Block} {ch : Ch} {code : Channel → DacCode}
    (hcode : code (b.ch.get ch).disengage = code (b.ch.get ch)) :
    setManual ch code b = (writeDac ch (code (b.ch.get ch)) >>= fun _ => pure (resultD ((code (b.ch.get ch)).setWidth 32)))
      (b.updCh ch Channel.disengage) := by
  rw [setManual, Cmd.run_bind_ok (Cmd.run_updateCh _ _ _), Cmd.run_bind_ok (Cmd.run_lookCh _ _ _), Block.updCh,
    PerCh.get_set_same, hcode]

/-- Settles O52: the disengagement changes nothing the code is computed from. -/
theorem manualSetCommandsComplete : Obligations.ManualSetCommandsComplete := by
  unfold Obligations.ManualSetCommandsComplete
  intro s ch a rest hs c b vi vv port
  have hcurrent : bodyOf (.chSetI ch) s.toBlock = (writeDac ch vi >>= fun _ => pure (resultD (vi.setWidth 32))) b :=
    run_setManual (code := (·.iToCode s.opA)) rfl
  have hvolts : bodyOf (.chSetDacVolts ch) s.toBlock = (writeDac ch vv >>= fun _ => pure (resultD (vv.setWidth 32))) b :=
    run_setManual (code := (·.voltsToCode s.opA)) rfl
  have hport : (Port.dac ch).info = port := by cases ch <;> rfl
  exact ⟨fun ha => ⟨exec_sent hcurrent hs ha, exec_sent hvolts hs ha⟩,
    fun ha => ⟨exec_notSent hcurrent hs hport ha, exec_notSent hvolts hs hport ha⟩⟩

theorem Channel.engaged_eq_false_iff (c : Channel) : c.engaged = false ↔ manual c := by
  cases hsel : c.mtxSel <;> simp [engaged, manual, hsel]

/-- R201: the policy is written, and with no controller engaged a code goes out. -/
theorem run_bodyChSetCenter (ch : Ch) (sel : CenterSel) (b : Block) :
    bodyChSetCenter ch sel b =
      (if (b.ch.get ch).engaged then pure noResult
        else writeDac ch ({ b.ch.get ch with center := newCenter sel b.opA }.iToCode (b.ch.get ch).current) >>= fun _ => pure noResult)
        (b.updCh ch (fun c => { c with center := newCenter sel b.opA })) := by
  rw [bodyChSetCenter, Cmd.run_bind_ok (Cmd.run_look _ _), Cmd.run_bind_ok (Cmd.run_lookCh _ _ _),
    Cmd.run_bind_ok (Cmd.run_updateCh _ _ _)]
  cases h : (b.ch.get ch).engaged
  · simp only [id, h, Bool.false_eq_true, if_false, Cmd.run_bind_ok (Cmd.run_lookCh _ _ _), Block.updCh, PerCh.get_set_same]
  · simp only [id, h, if_true]

/-- Settles O53: a case split on the engagement after the policy is written. -/
theorem setCenterCompletes : Obligations.SetCenterCompletes := by
  unfold Obligations.SetCenterCompletes
  intro s ch sel c c' b v
  have hrun : bodyOf (.chSetCenter ch sel) s.toBlock =
      (if c.engaged then pure noResult else writeDac ch v >>= fun _ => pure noResult) b := by
    cases sel <;> exact run_bodyChSetCenter ch _ s.toBlock
  refine ⟨fun hengaged => ?engaged, fun hmanual a rest hs => ?manual⟩
  case engaged =>
    have hc : c.engaged = true := by
      rw [← Bool.not_eq_false, Channel.engaged_eq_false_iff]
      exact hengaged
    rw [hc, if_pos rfl] at hrun
    rw [exec_eq, hrun, Cmd.run_pure, settle_ok]
    rfl
  case manual =>
    rw [(Channel.engaged_eq_false_iff c).mpr hmanual, if_neg Bool.false_ne_true] at hrun
    exact ⟨exec_sent hrun hs, exec_notSent hrun hs (by cases ch <;> rfl)⟩

/-! Commands without a port. -/

/-- Settles O35: one pin driven. -/
theorem dacInitCompletes : Obligations.DacInitCompletes := by
  unfold Obligations.DacInitCompletes
  intro s ch
  exact runCommand_completed (Cmd.run_bind_ok (run_dacInit ch s.toBlock) _)

/-- Settles O15: the engine by a case split on its mode. -/
theorem checksumCommandsComplete : Obligations.ChecksumCommandsComplete := by
  unfold Obligations.ChecksumCommandsComplete
  intro s m b
  have hfeed : ckFeedByte s.ck b =
      ⟨s.ck.mode, match s.ck.mode with
        | .off => s.ck.acc
        | .xor => s.ck.acc ^^^ b
        | .crc => crcSerial s.ck.acc b⟩ := by
    obtain ⟨mode, acc⟩ := s.ck
    cases mode <;> rfl
  have hvalue : (ckValue s.ck).map (·.setWidth 32) =
      (match s.ck.mode with
        | .off => none
        | .xor => some (s.ck.acc.setWidth 32)
        | .crc => some (s.ck.acc.setWidth 32) : Option (BitVec 32)) := by
    obtain ⟨mode, acc⟩ := s.ck
    cases mode <;> rfl
  refine ⟨runCommand_completed rfl, ?feed, ?result⟩
  case feed =>
    have hexec : exec (.ckFeed b) s = .next (completed s (s.setCk (ckFeedByte s.ck b)) {}) := runCommand_completed rfl
    exact hexec.trans (congrArg (fun c => Host.Outcome.next (completed s (s.setCk c) {})) hfeed)
  case result =>
    have hexec : exec .ckResult s = .next (completed s s.toBlock { rD := (ckValue s.ck).map (·.setWidth 32) }) :=
      runCommand_completed rfl
    exact hexec.trans (congrArg (fun v => Host.Outcome.next (completed s s.toBlock { rD := v })) hvalue)

/-- Settles O41: the model's conversion is the one the claim names; the parameter by a case split. -/
theorem steinhartHartCommandsComplete : Obligations.SteinhartHartCommandsComplete := by
  unfold Obligations.SteinhartHartCommandsComplete
  intro s ch f
  refine ⟨?_, ?_⟩
  · rw [← shTemp_eq_kelvinOf]
    exact runCommand_completed rfl
  · cases f <;> exact runCommand_completed rfl

/-- Settles O43: the rescaling is the model's own; the parameter by a case split. -/
theorem pidParameterCommandsComplete : Obligations.PidParameterCommandsComplete := by
  unfold Obligations.PidParameterCommandsComplete
  intro s ch f p
  refine ⟨runCommand_completed rfl, ?_⟩
  cases f <;> exact runCommand_completed rfl

/-- Settles O47: one coefficient, or one source, by a case split on its name. -/
theorem matrixSetCommandsComplete : Obligations.MatrixSetCommandsComplete := by
  unfold Obligations.MatrixSetCommandsComplete
  intro s k c r sel m
  refine ⟨?_, ?_⟩
  · cases c <;> exact runCommand_completed rfl
  · cases r <;> exact runCommand_completed rfl

/-- Settles O49: the operand is a code by its bound. -/
theorem sampleCompletes : Obligations.SampleCompletes := by
  unfold Obligations.SampleCompletes
  intro s ch hcode
  refine runCommand_completed (r := noResult) ?_
  rw [bodyChSample, Cmd.run_bind_ok (run_operandCode hcode), Cmd.run_bind_ok (Cmd.run_look _ _), Cmd.run_bind_ok (run_sample _ _ _ _)]
  rfl

/-- Settles O50: the model's temperature and current are those the claim names. -/
theorem temperatureAndCurrentReadsComplete : Obligations.TemperatureAndCurrentReadsComplete := by
  unfold Obligations.TemperatureAndCurrentReadsComplete
  intro s ch
  refine ⟨?_, runCommand_completed rfl⟩
  rw [← Block.chTemp_eq_celsiusOf s.toBlock ch]
  exact runCommand_completed rfl

/-- Settles O54: one field each; the driver enable is a pin driven as well. -/
theorem channelSettingCommandsComplete : Obligations.ChannelSettingCommandsComplete := by
  unfold Obligations.ChannelSettingCommandsComplete
  intro s ch f k l c
  refine ⟨runCommand_completed rfl, runCommand_completed rfl, runCommand_completed rfl, ?tec, ?limit⟩
  case tec => exact runCommand_completed (Cmd.run_bind_ok (setTecEn_run ch f s.toBlock) _)
  case limit => cases l <;> exact runCommand_completed rfl

end Sys2Proof.Machine
end

section
/-! The machine's step (what it runs, what it refuses), the block right after reset, and words written out. -/

namespace Sys2Proof.Machine

open Safety

/-! The step, by what is in progress and what is pending. -/

theorem step_of_running {s : State} {r : Running} (h : s.running = some r) : step s = resume r s := by
  rw [step, advance, h]

theorem step_of_fetch {s : State} {raw : Raw} (hrun : s.running = none) (hfetch : s.fetch = some raw) :
    step s = runRaw raw s.taken := by
  rw [step, advance, hrun]
  simp only [hfetch]

theorem step_of_idle {s : State} (hrun : s.running = none) (hfetch : s.fetch = none) : step s = .next s := by
  rw [step, advance, hrun]
  simp only [hfetch]

theorem State.fetch_of_command {s : State} (h : s.pending = .command) : s.fetch = some (.cmd32 s.cmd) := by
  rw [fetch, h]

theorem State.fetch_of_wire {s : State} {raw : Raw} (h : s.pending = .wire raw) : s.fetch = some raw := by rw [fetch, h]

theorem State.fetch_of_idle {s : State} (h : s.pending = .idle) : s.fetch = none := by rw [fetch, h]

theorem runRaw_of_ok {s : State} {raw : Raw} {i : Instr} (h : decode s.cfg.tables raw = .ok i) : runRaw raw s = exec i s := by
  rw [runRaw, h]

theorem runRaw_of_error {s : State} {raw : Raw} {e : Reject} (h : decode s.cfg.tables raw = .error e) :
    runRaw raw s = .next (failed s s.toBlock 2#8 (Raw.info raw)) := by
  rw [runRaw, h]
  rfl

/-- Settles O4: the step by what is in progress and what is pending. -/
theorem stepRunsDecodedInstruction : Obligations.StepRunsDecodedInstruction := by
  unfold Obligations.StepRunsDecodedInstruction
  refine ⟨fun s i hrun hpending hdec => ?command, fun s raw i hrun hpending hdec => ?wire, fun s hrun hpending => ?idle,
    fun s r hrun => ?running⟩
  case command => exact (step_of_fetch hrun (State.fetch_of_command hpending)).trans (runRaw_of_ok (s := s.taken) hdec)
  case wire => exact (step_of_fetch hrun (State.fetch_of_wire hpending)).trans (runRaw_of_ok (s := s.taken) hdec)
  case idle => exact step_of_idle hrun (State.fetch_of_idle hpending)
  case running => exact step_of_running hrun

/-- Settles O5: the step takes the word, and the decoder refuses it. -/
theorem refusedWordEndsIllegal : Obligations.RefusedWordEndsIllegal := by
  unfold Obligations.RefusedWordEndsIllegal
  refine ⟨fun s e hrun hpending hdec => ?command, fun s raw e hrun hpending hdec => ?wire⟩
  case command =>
    exact (step_of_fetch hrun (State.fetch_of_command hpending)).trans (runRaw_of_error (s := s.taken) hdec)
  case wire =>
    have hstep := (step_of_fetch hrun (State.fetch_of_wire hpending)).trans (runRaw_of_error (s := s.taken) hdec)
    cases raw <;> exact hstep

/-- Settles O8: nothing has been driven or sent, and nothing is stored. -/
theorem resetSatisfiesInv : Obligations.ResetSatisfiesInv := by
  unfold Obligations.ResetSatisfiesInv
  have hchannel : ∀ ch, ChannelSound Block.reset ch := fun ch => by cases ch <;> exact ⟨rfl, rfl, nofun, rfl, nofun⟩
  exact ⟨(blockOk_iff Block.reset).mpr ⟨rfl, rfl, nofun, hchannel⟩, rfl⟩

/-- The words are written out from the spec's encodings, so each is what the encoder gives for its instruction. -/
theorem decode_of_encode_eq {T : AdcTables} {i : Instr} {raw : Raw} (hraw : encode i = raw) (hwf : i.wellFormed T = true) :
    decode T raw = .ok i := decode_eq_ok.mpr ⟨hraw, hwf⟩

/-- R98: the postfilter rates, rounded to binary64. -/
theorem defaultTables_postfilters : defaultTables.postfilters =
    [(2#3, 0x403B000000000000#64), (3#3, 0x4035400000000000#64), (5#3, 0x4034000000000000#64), (6#3, 0x4030AB851EB851EC#64)] := by
  decide +kernel

/-- Settles O3: each word is the encoding of a well-formed instruction, which decodes (`decode_eq_ok`); the tables are the
defaults. -/
theorem writtenOutWordsDecode : Obligations.WrittenOutWordsDecode := by
  unfold Obligations.WrittenOutWordsDecode
  intro T
  exact ⟨decode_of_encode_eq (by decide) rfl, decode_of_encode_eq (by decide) (by decide +kernel),
    decode_of_encode_eq (by decide) (by decide +kernel), decode_of_encode_eq (by decide) rfl, decode_of_encode_eq (by decide) rfl,
    decode_of_encode_eq (by decide) rfl, decode_of_encode_eq (by decide) rfl, decode_of_encode_eq (by decide) rfl,
    decode_of_encode_eq (by decide) (by decide +kernel), decode_of_encode_eq (by decide) rfl, decode_of_encode_eq (by decide) rfl,
    decode_of_encode_eq (by decide) rfl, decode_of_encode_eq (by decide) rfl, decode_of_encode_eq (by decide) rfl, rfl, rfl,
    defaultTables_postfilters⟩

end Sys2Proof.Machine
end

section
/-! Binary64 facts (00_scope.md R13) and the two claims about numbers that rest on them: the bounds of the PID (45_pid.md R170) and
the nearest postfilter rate (42_adc_protocol.md R143). -/

namespace Sys2Proof.Machine

open Safety

/-! A pattern from its sign and magnitude. -/

theorem F64.toNat_eq (x : F64) : x.toNat = (if F64.sign x then 2 ^ 63 else 0) + F64.mag x := by
  have hx : x.toNat < 2 ^ 64 := x.isLt
  have hsign : F64.sign x = decide (x.toNat / 2 ^ 63 % 2 = 1) := by
    rw [F64.sign, BitVec.getLsbD, Nat.testBit_eq_decide_div_mod_eq]
  rw [F64.mag_eq_mod, hsign]
  by_cases h : x.toNat / 2 ^ 63 % 2 = 1 <;> simp only [h, decide_true, decide_false, if_true, if_false, Bool.false_eq_true] <;> omega

theorem F64.pack_sign_mag (x : F64) : F64.pack (F64.sign x) (F64.mag x) = x := by
  rw [F64.pack, ← F64.toNat_eq]
  exact BitVec.ofNat_toNat .. |>.trans (BitVec.setWidth_eq x)

theorem F64.mag_pack_of_lt {mag : Nat} (s : Bool) (h : mag < 2 ^ 63) : F64.mag (F64.pack s mag) = mag := by
  cases s <;> simp only [F64.mag_eq_mod, F64.pack, if_true, if_false, Bool.false_eq_true, BitVec.toNat_ofNat] <;> omega

theorem F64.isNaN_pack {mag : Nat} (s : Bool) (h : mag ≤ F64.infMag) : F64.isNaN (F64.pack s mag) = false := by
  rw [F64.isNaN_eq_false_iff, F64.mag_pack_of_lt s (h.trans_lt (by decide))]
  exact h

/-! Rounding. -/

theorem F64.isNaN_pack_or_inf (s : Bool) (mag : Nat) :
    F64.isNaN (if F64.infMag ≤ mag then F64.inf s else F64.pack s mag) = false := by
  by_cases h : F64.infMag ≤ mag
  · rw [if_pos h]
    exact F64.isNaN_pack s le_rfl
  · rw [if_neg h]
    exact F64.isNaN_pack s (by omega)

theorem F64.isNaN_round (s : Bool) (n : Nat) (e : Int) : F64.isNaN (F64.round s n e) = false := by
  rw [F64.round]
  by_cases hn : n = 0
  · rw [if_pos hn]
    exact F64.isNaN_pack s (Nat.zero_le _)
  · rw [if_neg hn]
    exact F64.isNaN_pack_or_inf s _

/-- A number whose lowest bit is at the unit in the last place needs no rounding. -/
theorem F64.round_of_exact (s : Bool) {n : Nat} {e : Int} (hn : 0 < n) (hunit : max (e + (n.log2 : Int) - 52) (-1074) = e)
    (hmag : (e + 1074).toNat * 2 ^ 52 + n < F64.infMag) :
    F64.round s n e = F64.pack s ((e + 1074).toNat * 2 ^ 52 + n) := by
  simp only [F64.round, hunit, if_neg hn.ne', le_refl, if_true, sub_self, Int.toNat_zero, Nat.shiftLeft_zero, if_neg hmag.not_ge]

/-- Settles O60: the unit in the last place of an unpacked value is its exponent. -/
theorem roundingKeepsFiniteValues : Obligations.RoundingKeepsFiniteValues := by
  unfold Obligations.RoundingKeepsFiniteValues
  intro x hx
  have hexp : F64.expField x < 2 ^ 11 := (x.extractLsb' 52 11).isLt
  have hfin : F64.expField x ≠ 2047 := by simpa [F64.isFinite] using hx
  have hfrac := F64.frac_lt x
  have hmag := F64.mag_eq x
  have hinf : F64.infMag = 2047 * 2 ^ 52 := rfl
  rcases Nat.eq_zero_or_pos (F64.expField x) with hsub | hnormal
  · refine ⟨_, _, _, F64.unpack_of_subnormal hsub, ?_⟩
    rw [hsub, Nat.zero_mul, Nat.zero_add] at hmag
    rcases Nat.eq_zero_or_pos (F64.frac x) with hzero | hpos
    · rw [F64.round, if_pos hzero, F64.zero, ← hzero, ← hmag, F64.pack_sign_mag]
    · have hlog : (F64.frac x).log2 < 52 := (Nat.log2_lt hpos.ne').mpr hfrac
      rw [F64.round_of_exact _ hpos (by omega) (by simp; omega)]
      simpa [← hmag] using F64.pack_sign_mag x
  · refine ⟨_, _, _, F64.unpack_of_normal hnormal (by omega), ?_⟩
    have hlog : (2 ^ 52 + F64.frac x).log2 = 52 := (Nat.log2_eq_iff (by omega)).mpr ⟨by omega, by omega⟩
    have hunit : ((F64.expField x : Int) - 1075 + 1074).toNat = F64.expField x - 1 := by omega
    have hval : (F64.expField x - 1) * 2 ^ 52 + (2 ^ 52 + F64.frac x) = F64.mag x := by omega
    rw [F64.round_of_exact _ (by omega) (by omega) (by omega), hunit, hval, F64.pack_sign_mag]

/-! Clamping. -/

theorem F64.le_refl {x : F64} (h : F64.isNaN x = false) : F64.le x x = true := F64.le_iff.mpr ⟨h, h, le_rfl⟩

theorem F64.le_of_not_lt {a b : F64} (ha : F64.isNaN a = false) (hb : F64.isNaN b = false) (h : ¬ F64.lt b a = true) :
    F64.le a b = true := by
  rw [F64.lt_iff] at h
  exact F64.le_iff.mpr ⟨ha, hb, not_lt.mp fun hkey => h ⟨hb, ha, hkey⟩⟩

/-- R13: what is not NaN comes out between ordered bounds. -/
theorem F64.clamp_mem {lo hi : F64} (h : F64.le lo hi = true) (x : F64) :
    F64.isNaN (F64.clamp x lo hi) = true ∨ (F64.le lo (F64.clamp x lo hi) = true ∧ F64.le (F64.clamp x lo hi) hi = true) := by
  obtain ⟨hlo, hhi, -⟩ := F64.le_iff.mp h
  unfold F64.clamp
  by_cases hbelow : F64.lt x lo = true
  · rw [if_pos hbelow]
    exact .inr ⟨F64.le_refl hlo, h⟩
  · rw [if_neg hbelow]
    by_cases habove : F64.lt hi x = true
    · rw [if_pos habove]
      exact .inr ⟨h, F64.le_refl hhi⟩
    · rw [if_neg habove]
      cases hx : F64.isNaN x with
      | true => exact .inl rfl
      | false => exact .inr ⟨F64.le_of_not_lt hlo hx hbelow, F64.le_of_not_lt hx hhi habove⟩

/-- R13: what lies between the bounds stays. -/
theorem F64.clamp_of_mem {x lo hi : F64} (hlo : F64.le lo x = true) (hhi : F64.le x hi = true) : F64.clamp x lo hi = x := by
  rw [F64.clamp, if_neg fun h => F64.not_le_of_lt h hlo, if_neg fun h => F64.not_le_of_lt h hhi]

/-- R167: a previous output that is not strictly inside the bounds, or none, keeps the accumulator. -/
theorem Pid.accumulated_of_closed {p : Pid} (input dt : F64)
    (h : ∀ lo, p.lastOutput = some lo → ¬ (F64.lt p.outputMin lo = true ∧ F64.lt lo p.outputMax = true)) :
    p.accumulated input dt = p.integral := by
  cases hlast : p.lastOutput with
  | none => exact Pid.accumulated_of_none input dt hlast
  | some lo => rw [Pid.accumulated_of_some input dt hlast, if_neg (h lo hlast)]

/-- Settles O44: a clamped value lies between ordered bounds, and one that lay there is kept. -/
theorem pidOutputBounded : Obligations.PidOutputBounded := by
  unfold Obligations.PidOutputBounded
  intro s t ch p q hout hint hexec
  rw [exec_pidUpdate] at hexec
  obtain rfl : _ = t := by injection hexec
  have hq : q = p.step s.opA s.opB := congrArg Channel.pid (PerCh.get_set_same s.ch ch _)
  rw [hq]
  refine ⟨⟨p.output s.opA s.opB, rfl, rfl, F64.clamp_mem hout _⟩, F64.clamp_mem hint _, fun hclosed hlow hhigh => ?_⟩
  have hkept := Pid.accumulated_of_closed s.opA s.opB hclosed
  exact (congrArg (F64.clamp · p.integralMin p.integralMax) hkept).trans (F64.clamp_of_mem hlow hhigh)

/-! The nearest rate. -/

theorem F64.mag_abs (x : F64) : F64.mag (F64.abs x) = F64.mag x := by
  have habs : (F64.abs x).toNat = x.toNat % 2 ^ 63 := by
    rw [F64.abs, BitVec.toNat_and, BitVec.toNat_ofNat, Nat.mod_eq_of_lt (by decide), Nat.and_two_pow_sub_one_eq_mod]
  rw [F64.mag_eq_mod, F64.mag_eq_mod, habs, Nat.mod_mod]

theorem F64.mag_neg (x : F64) : F64.mag (F64.neg x) = F64.mag x := by
  have hneg : (F64.neg x).toNat % 2 ^ 63 = x.toNat % 2 ^ 63 := by
    rw [F64.neg, BitVec.toNat_xor, BitVec.toNat_ofNat, Nat.xor_mod_two_pow, show 2 ^ 63 % 2 ^ 64 % 2 ^ 63 = 0 by decide,
      Nat.xor_zero]
  rw [F64.mag_eq_mod, F64.mag_eq_mod, hneg]

theorem F64.isNaN_congr {x y : F64} (h : F64.mag x = F64.mag y) : F64.isNaN x = F64.isNaN y := by
  rw [Bool.eq_iff_iff, ← not_iff_not, Bool.not_eq_true, Bool.not_eq_true, F64.isNaN_eq_false_iff, F64.isNaN_eq_false_iff, h]

theorem F64.unpack_ne_nan {x : F64} (h : F64.isNaN x = false) : F64.unpack x ≠ .nan := by
  unfold F64.unpack
  split
  · split
    · exact nofun
    · simp_all [F64.isNaN]
  · split <;> exact nofun

theorem F64.unpack_of_isFinite {x : F64} (h : F64.isFinite x = true) : ∃ s m e, F64.unpack x = .fin s m e := by
  have hfin : F64.expField x ≠ 2047 := by simpa [F64.isFinite] using h
  unfold F64.unpack
  rw [if_neg hfin]
  split <;> exact ⟨_, _, _, rfl⟩

/-- A finite value minus anything but a NaN is no NaN. -/
theorem F64.isNaN_sub {a b : F64} (ha : F64.isFinite a = true) (hb : F64.isNaN b = false) : F64.isNaN (F64.sub a b) = false := by
  obtain ⟨s, m, e, hunpack⟩ := F64.unpack_of_isFinite ha
  have hneg := F64.unpack_ne_nan ((F64.isNaN_congr (F64.mag_neg b)).trans hb)
  rw [F64.sub, hunpack]
  cases hb' : F64.unpack (F64.neg b) with
  | nan => exact absurd hb' hneg
  | inf s' => exact F64.isNaN_pack s' le_rfl
  | fin s' m' e' =>
    simp only [F64.addNum, F64.addFin]
    split
    · exact F64.isNaN_pack _ (Nat.zero_le _)
    · exact F64.isNaN_round _ _ _

theorem isNaN_rateError {target rate : F64} (hrate : F64.isFinite rate = true) (htarget : F64.isNaN target = false) :
    F64.isNaN (rateError target rate) = false :=
  (F64.isNaN_congr (F64.mag_abs _)).trans (F64.isNaN_sub hrate htarget)

theorem F64.lt_eq_key {a b : F64} (ha : F64.isNaN a = false) (hb : F64.isNaN b = false) :
    F64.lt a b = decide (F64.key a < F64.key b) := by
  rw [F64.lt, ha, hb]
  rfl

/-- R143: the fold over the table ends at an entry nearer than every earlier one and not farther than any later one. -/
theorem foldl_closerFilter {target : F64} (htarget : F64.isNaN target = false) (first : BitVec 3 × F64)
    (rest : List (BitVec 3 × F64)) (hfin : ∀ e ∈ first :: rest, F64.isFinite e.2 = true) :
    ∃ earlier later, first :: rest = earlier ++ rest.foldl (closerFilter target) first :: later ∧
      (∀ e ∈ earlier, F64.lt (rateError target (rest.foldl (closerFilter target) first).2) (rateError target e.2) = true) ∧
      (∀ e ∈ later, F64.lt (rateError target e.2) (rateError target (rest.foldl (closerFilter target) first).2) = false) := by
  have hlt : ∀ x ∈ first :: rest, ∀ y ∈ first :: rest, F64.lt (rateError target x.2) (rateError target y.2) =
      decide (F64.key (rateError target x.2) < F64.key (rateError target y.2)) := fun x hx y hy =>
    F64.lt_eq_key (isNaN_rateError (hfin x hx) htarget) (isNaN_rateError (hfin y hy) htarget)
  induction rest using List.reverseRecOn with
  | nil => exact ⟨[], [], rfl, nofun, nofun⟩
  | append_singleton rest e ih =>
    have hsub : ∀ x ∈ first :: rest, x ∈ first :: (rest ++ [e]) := fun x hx => List.mem_append_left [e] hx
    obtain ⟨earlier, later, hsplit, hearlier, hlater⟩ :=
      ih (fun x hx => hfin x (hsub x hx)) (fun x hx y hy => hlt x (hsub x hx) y (hsub y hy))
    rw [List.foldl_append, List.foldl_cons, List.foldl_nil]
    generalize rest.foldl (closerFilter target) first = best at *
    have hmem : ∀ x ∈ earlier ++ best :: later, x ∈ first :: (rest ++ [e]) := fun x hx => hsub x (hsplit ▸ hx)
    have he : e ∈ first :: (rest ++ [e]) := by simp
    have hbest := hmem best (by simp)
    rw [closerFilter, hlt e he best hbest]
    by_cases hcloser : F64.key (rateError target e.2) < F64.key (rateError target best.2)
    · rw [decide_eq_true hcloser, if_pos rfl]
      refine ⟨first :: rest, [], by simp, fun x hx => ?_, nofun⟩
      rw [hlt e he x (hsub x hx), decide_eq_true_eq]
      rw [hsplit, List.mem_append, List.mem_cons] at hx
      obtain hx | rfl | hx := hx
      · have h := hearlier x hx
        rw [hlt best hbest x (hmem x (by simp [hx])), decide_eq_true_eq] at h
        exact hcloser.trans h
      · exact hcloser
      · have h := hlater x hx
        rw [hlt x (hmem x (by simp [hx])) best hbest, decide_eq_false_iff_not, not_lt] at h
        exact hcloser.trans_le h
    · rw [decide_eq_false hcloser, if_neg Bool.false_ne_true]
      refine ⟨earlier, later ++ [e], by rw [← List.cons_append, hsplit, List.append_assoc, List.cons_append], hearlier, fun x hx => ?_⟩
      obtain hx | rfl := List.mem_append.mp hx |>.imp_right List.mem_singleton.mp
      · exact hlater x hx
      · rw [hlt x he best hbest, decide_eq_false hcloser]

theorem closestPostfilter_of_isNaN {target : F64} (table : List (BitVec 3 × F64)) (h : F64.isNaN target = true) :
    closestPostfilter table target = none := by
  unfold closestPostfilter
  rw [if_pos h]

theorem closestPostfilter_nil (target : F64) : closestPostfilter [] target = none := by
  unfold closestPostfilter
  split <;> rfl

theorem closestPostfilter_cons {target : F64} (h : F64.isNaN target = false) (first : BitVec 3 × F64)
    (rest : List (BitVec 3 × F64)) :
    closestPostfilter (first :: rest) target = some (rest.foldl (closerFilter target) first).1 := by
  rw [closestPostfilter, h, if_neg Bool.false_ne_true]

theorem exec_adcPostfilterClosest (s : State) :
    exec .adcPostfilterClosest s = .next (completed s s.toBlock
      { rD := (closestPostfilter s.cfg.tables.postfilters s.opA).map (·.setWidth 32) }) := runCommand_completed rfl

/-- Settles O32: NaN and an empty table give none; otherwise the fold over the table. -/
theorem postfilterClosestIsNearest : Obligations.PostfilterClosestIsNearest := by
  unfold Obligations.PostfilterClosestIsNearest
  intro s hfin
  refine ⟨fun hnone => ?none, fun hnan hne => ?some⟩
  case none =>
    have hclosest : closestPostfilter s.cfg.tables.postfilters s.opA = none := by
      obtain hnan | hempty := hnone
      · exact closestPostfilter_of_isNaN _ hnan
      · rw [hempty, closestPostfilter_nil]
    rw [exec_adcPostfilterClosest, hclosest]
    rfl
  case some =>
    obtain ⟨first, rest, htable⟩ := List.exists_cons_of_ne_nil hne
    rw [htable] at hfin
    obtain ⟨earlier, later, hsplit, hearlier, hlater⟩ := foldl_closerFilter hnan first rest hfin
    refine ⟨earlier, later, _, htable.trans hsplit, ?_, hearlier, hlater⟩
    rw [exec_adcPostfilterClosest, htable, closestPostfilter_cons hnan]
    rfl

end Sys2Proof.Machine
end

section
/-! CH_READ_FIELD (47_channel.md R211): the tables of the claims are the model's own fields, id by id; and POLL_ADC where it sends
nothing (R207, R213). -/

namespace Sys2Proof.Machine

open Safety

/-! R211: the ids. -/

/-- The ids of each class, in the order of the table. -/
def fieldIds : FieldClass → List (BitVec 8)
  | .channel => (List.range' 0x00 20 ++ List.range' 0x20 11 ++ List.range' 0x30 11 ++ List.range' 0x40 3 ++
      List.range' 0x50 3).map (BitVec.ofNat 8)
  | .matrix => (List.range' 0x60 15).map (BitVec.ofNat 8)
  | .block => (List.range' 0xF0 9).map (BitVec.ofNat 8)

theorem mem_fieldIds_iff (c : FieldClass) : ∀ id : BitVec 8, id ∈ fieldIds c ↔ fieldClass id = some c := by
  cases c <;> decide +kernel

/-- The fields of one class as the model reports them. -/
def reports (c : FieldClass) (field : BitVec 8 → Option Results) : List (BitVec 8 × Results) :=
  (fieldIds c).map (fun id => (id, (field id).getD {}))

theorem reports_ids (c : FieldClass) (field : BitVec 8 → Option Results) : (reports c field).map (·.1) = fieldIds c := by
  simp [reports, Function.comp_def]

/-- A report is the model's field, where the model has one for every id of the class. -/
theorem eq_some_of_mem_reports {c : FieldClass} {field : BitVec 8 → Option Results} {e : BitVec 8 × Results}
    (he : e ∈ reports c field) (hsome : ∀ id, fieldClass id = some c → (field id).isSome = true) : field e.1 = some e.2 := by
  obtain ⟨id, hid, rfl⟩ := List.mem_map.mp he
  obtain ⟨r, hr⟩ := Option.isSome_iff_exists.mp (hsome id ((mem_fieldIds_iff c id).mp hid))
  simp [hr]

/-! R211: the three tables. -/

theorem levelWord_eq (l : Level) : (if l = .high then 1#32 else 0#32) = levelWord l := by cases l <;> rfl

theorem selectorCode_eq (s : Source) : selectorCode s = (sourceCode s).setWidth 32 := by
  match s with
  | .const | .temp .c0 | .temp .c1 => rfl
  | .filter k => cases k <;> rfl

theorem channelFields_eq (b : Block) (ch : Ch) : channelFields b ch = reports .channel (b.field (chCode ch)) := by
  simp only [channelFields, levelWord_eq, ← Block.chTemp_eq_celsiusOf]
  cases ch <;> rfl

theorem matrixFields_eq (b : Block) (k : Slot) : matrixFields (b.mtx.get k) = reports .matrix (b.field (slotCode k)) := by
  simp only [matrixFields, selectorCode_eq]
  cases k <;> rfl

theorem blockFields_eq (b : Block) : blockFields b = reports .block (b.field 0#3) := by
  match b with
  | { ckmode := m, ck := ⟨m', acc⟩, .. } => cases m <;> cases m' <;> rfl

/-! The command. -/

theorem exec_chReadField_of_some {s : State} {idx : BitVec 3} {id : BitVec 8} {r : Results} (h : s.field idx id = some r) :
    exec (.chReadField idx id) s = .next (completed s s.toBlock r) := by
  refine runCommand_completed ?_
  rw [bodyChReadField, Cmd.run_bind_ok (Cmd.run_look _ _), Cmd.run_bind_ok (Cmd.run_look _ _), h]
  rfl

theorem exec_chReadField_of_none {s : State} {idx : BitVec 3} {id : BitVec 8} (h : s.field idx id = none) :
    exec (.chReadField idx id) s = .next (failed s s.toBlock 2#8 s.cmd) := by
  refine runCommand_failed (e := .illegalCommand s.cmd) ?_
  rw [bodyChReadField, Cmd.run_bind_ok (Cmd.run_look _ _), Cmd.run_bind_ok (Cmd.run_look _ _), h]
  rfl

/-- An id whose class the index fits is reported. -/
theorem field_isSome_of_legal (b : Block) {c : FieldClass} {idx : BitVec 3} (hidx : fieldIdxLegal c idx = true) (id : BitVec 8)
    (hid : fieldClass id = some c) : (b.field idx id).isSome = true := by
  rw [Block.field_isSome, fieldLegal, hid]
  exact hidx

/-- Settles O51: the tables are the model's fields for the ids of each class; any other id, or an index that does not fit it, has
no field. -/
theorem fieldReadsComplete : Obligations.FieldReadsComplete := by
  unfold Obligations.FieldReadsComplete
  intro s
  refine ⟨fun ch e he => ?channel, fun k e he => ?matrix, fun e he => ?block, fun idx id hchannel hmtx hblock => ?refused⟩
  case channel =>
    rw [channelFields_eq] at he
    exact exec_chReadField_of_some (eq_some_of_mem_reports he (field_isSome_of_legal _ (Option.isSome_of_eq_some (chOf_eq_some.mpr rfl))))
  case matrix =>
    have he : e ∈ matrixFields (s.toBlock.mtx.get k) := he
    rw [matrixFields_eq] at he
    exact exec_chReadField_of_some (eq_some_of_mem_reports he (field_isSome_of_legal _ rfl))
  case block =>
    rw [blockFields_eq] at he
    exact exec_chReadField_of_some (eq_some_of_mem_reports he (field_isSome_of_legal _ rfl))
  case refused =>
    refine exec_chReadField_of_none ?_
    rw [← Option.not_isSome_iff_eq_none, Block.field_isSome, fieldLegal]
    cases hid : fieldClass id with
    | none => exact Bool.false_ne_true
    | some c =>
      have hmem := (mem_fieldIds_iff c id).mpr hid
      cases c with
      | channel =>
        intro hidx
        obtain ⟨ch, hch⟩ := Option.isSome_iff_exists.mp hidx
        have hnot := hchannel ch (chOf_eq_some.mp hch).symm
        rw [channelFields_eq, reports_ids] at hnot
        exact hnot hmem
      | matrix =>
        have hnot : id ∉ (matrixFields (s.toBlock.mtx.get .k0)).map (·.1) := hmtx
        rw [matrixFields_eq, reports_ids] at hnot
        exact absurd hmem hnot
      | block =>
        intro hidx
        have hnot := hblock (by simpa [fieldIdxLegal] using hidx)
        rw [blockFields_eq, reports_ids] at hnot
        exact hnot hmem

/-! POLL_ADC without an output. -/

/-- R213: nothing is ready. -/
theorem bodyPollAdc_notReady {b : Block} {st : List Byte} {as rest : List Answer} (hn : b.nss = .high)
    (hready : isReady b.regs st = false) (hconv : converses b [.read b.ckmode b.regs.status st] as rest) :
    bodyPollAdc b = .ok noResult (afterFrames b [.read b.ckmode b.regs.status st] as rest) := by
  rw [bodyPollAdc, Cmd.run_bind_ok (Cmd.run_look _ b), Cmd.run_bind_ok (Cmd.run_look _ b),
    Cmd.run_bind_ok (readStatus_good hn rfl hconv), statusReady_eq, hready, if_neg Bool.false_ne_true, Cmd.run_pure]

theorem controlChannel_of_one_lt {n : Nat} (h : 1 < n) : controlChannel n = none := by
  match n, h with
  | n + 2, _ => rfl

/-- R213, R146: a result of an ADC channel that is no control channel is read and dropped. -/
theorem bodyPollAdc_dropped {b : Block} {st p : List Byte} {as rest : List Answer} (hn : b.nss = .high)
    (hready : isReady b.regs st = true) (hch : 1 < fieldOf b.regs.channel (be st))
    (hconv : converses b (dataFrames b st p) as rest) :
    bodyPollAdc b = .ok noResult (afterFrames b (dataFrames b st p) as rest) := by
  obtain ⟨xs, ys, rfl, hst, hp, hlen⟩ := converses_cons hconv
  have hdata := readValue_good (b := afterFrames b [.read b.ckmode b.regs.status st] xs (ys ++ rest)) hn rfl hp
  rw [afterFrames_cons b _ _ xs ys rest _ hlen] at hdata
  rw [bodyPollAdc, Cmd.run_bind_ok (Cmd.run_look _ b), Cmd.run_bind_ok (Cmd.run_look _ b),
    Cmd.run_bind_ok (readStatus_good hn rfl hst), statusReady_eq, hready, if_pos rfl, Cmd.run_bind_ok hdata, statusChannel_eq,
    controlChannel_of_one_lt hch]
  rfl

/-- R207: with no controller engaged the matrix ticks and nothing else happens. -/
theorem controlStep_manual {b d : Block} {ch : Ch} (hd : b.setMtx b.ticked = d) (he : (d.ch.get ch).engaged = false) :
    controlStep ch b = .ok () d := by
  rw [controlStep, Cmd.run_bind_ok (run_mtxTick b), hd, Cmd.run_bind_ok (Cmd.run_lookCh ch _ d), he,
    if_neg Bool.false_ne_true, Cmd.run_pure]

/-- R207: a PID without an interval above 0 says nothing. -/
theorem controlOutput_none {b : Block} {ch : Ch} (t : F64) (hk : (b.ch.get ch).mtxSel = none)
    (hi : (b.ch.get ch).iirEngaged = false) (hdt : ∀ dt, (b.ch.get ch).adcInterval = some dt → F64.lt zeroF dt = false) :
    controlOutput ch t b = .ok none b := by
  rw [controlOutput, Cmd.run_bind_ok (Cmd.run_lookCh ch id b), id, hk]
  simp only [hi, Bool.false_eq_true, if_false]
  cases hint : (b.ch.get ch).adcInterval with
  | none => rfl
  | some dt => simp only [hdt dt hint, Bool.false_eq_true, if_false, Cmd.run_pure]

theorem controlStep_silent {b d : Block} {ch : Ch} {temp : F64} (hd : b.setMtx b.ticked = d)
    (he : (d.ch.get ch).engaged = true) (ht : d.chTemp ch = some temp) (ho : controlOutput ch temp d = .ok none d) :
    controlStep ch b = .ok () d := by
  rw [controlStep, Cmd.run_bind_ok (run_mtxTick b), hd, Cmd.run_bind_ok (Cmd.run_lookCh ch _ d), he, if_pos rfl,
    Cmd.run_bind_ok (Cmd.run_look _ d), ht]
  exact Cmd.run_bind_ok ho _

/-- R207, R213: the control step ends without an output. -/
theorem exec_pollAdc_stepped {s : State} {st p : List Byte} {ch : Ch} {as rest : List Answer} {d : Block}
    (h : PollAnswered s.toBlock st p ch as rest)
    (hstep : controlStep ch (afterSample s.toBlock st p ch as rest) = .ok () d) :
    exec .pollAdc s = .next (completed s d (resultD (chInfo ch))) :=
  runCommand_completed ((bodyPollAdc_sampled h).trans (Cmd.run_bind_ok hstep _))

/-- Settles O57: one case for each way the control step or the reads before it end without an output. -/
theorem pollAdcWithoutOutput : Obligations.PollAdcWithoutOutput := by
  unfold Obligations.PollAdcWithoutOutput
  intro s st p ch as rest hn t
  refine ⟨fun hready hconv => runCommand_completed (bodyPollAdc_notReady hn hready hconv), fun fs hfs hready hconv => ?ready⟩
  case ready =>
    subst hfs
    refine ⟨fun hch => runCommand_completed (bodyPollAdc_dropped hn hready hch hconv), ?control⟩
    case control =>
      intro hch b c done
      have hpoll : PollAnswered s.toBlock st p ch as rest := ⟨hn, hready, hch.trans (by cases ch <;> rfl), hconv⟩
      have hdone : resultD (chInfo ch) = done := by cases ch <;> rfl
      have htemp : b.chTemp ch = celsiusOf b.cfg c := Block.chTemp_eq_celsiusOf b ch
      rw [← hdone]
      refine ⟨fun hmanual => ?manual, fun hengaged habsent => ?absent, fun hp hi hk hdt => ?pid⟩
      case manual =>
        exact exec_pollAdc_stepped hpoll (controlStep_manual (afterSample_ticked ..) ((Channel.engaged_eq_false_iff c).mpr hmanual))
      case absent =>
        have hc : c.engaged = true := by
          rw [← Bool.not_eq_false, Channel.engaged_eq_false_iff]
          exact hengaged
        exact exec_pollAdc_absent hpoll rfl hc (htemp.trans habsent)
      case pid =>
        have hc : c.engaged = true := engaged_of_pidEngaged hp
        cases ht : celsiusOf b.cfg c with
        | none => exact exec_pollAdc_absent hpoll rfl hc (htemp.trans ht)
        | some temp =>
          exact exec_pollAdc_stepped hpoll
            (controlStep_silent (afterSample_ticked ..) hc (htemp.trans ht) (controlOutput_none temp hk hi hdt))

end Sys2Proof.Machine
end
